-- ==== Sys2Proof/Word.lean ====
section
/-! DEFINITION. The widths of the part's numbers (spec/10 R187, R195). -/

namespace Sys2Proof

/-- A byte of a frame, of a record or of the image store. -/
abbrev Byte := BitVec 8

/-- A 40-bit byte address (spec/00, Conventions; R195). -/
abbrev Addr := BitVec 40

/-- A 32-bit number: a statistics counter (R3) or a segment CRC (R114). -/
abbrev Word32 := BitVec 32

/-- A 16-bit sequence number (R88). -/
abbrev Word16 := BitVec 16

end Sys2Proof
end

