-- ==== Sys2Proof/Config.lean ====
section
/-! DEFINITION. The constants the manual fixes for the part (spec/00, Numbers used throughout). The manual leaves no result
of a command undefined, so there is no free value here. -/

namespace Sys2Proof.Config

/-- The granule of windows, in bytes (R1). -/
def granule : Nat := 64

/-- One past the highest host address (R1). -/
def addressSpace : Nat := 2 ^ 40

/-- Requests lie in one aligned block of this many bytes (R133). -/
def block : Nat := 128

/-- The image store's size in bytes (R107). -/
def storeSize : Nat := 16384

/-- The longest payload of a frame (R188). -/
def maxPayload : Nat := 160

/-- The renewals of one hold (R42). -/
def maxRenewals : Nat := 3

/-- The highest count of a notice (R86). -/
def maxCount : Nat := 255

/-- The timeout table at power-on and after clearall, class by class, in units of 10 µs (R37). -/
def defaultTimeouts : Vector Nat 4 := #v[100, 1000, 10000, 65535]

/-- The byte that begins a poll frame (R189). -/
def pollCode : Byte := 0x7E

/-- What the status byte of a poll reads for IDLE, BUSY and READY (R188). -/
def statusIdle : Byte := 0x01
def statusBusy : Byte := 0x02
def statusReady : Byte := 0x03

end Sys2Proof.Config
end

