-- ==== Sys2Proof/Syntax.lean ====
section
/-! DEFINITION. The commands of the part: one constructor per row of spec/opcode_table.json, in the table's order. -/

namespace Sys2Proof

/-- The operation of a request (R133). -/
inductive Op where
  | read
  | write
  deriving DecidableEq, Repr

/-- A request as the host link or a hold slot carries it (R133, R195). The mask and the data have their own counts, which the
malformed request check compares with the length (R140). -/
structure HostRequest where
  tag : Fin 32
  op : Op
  addr : Addr
  len : Byte
  mask : Option (List Bool)
  data : List Byte
  deriving DecidableEq, Repr

/-- A memory response (R160, R195): its two status bits are OK 0 and FAULT 3; 1 and 2 are not well-formed. -/
structure MemResponse where
  tag : Fin 16
  status : BitVec 2
  data : List Byte
  deriving DecidableEq, Repr

/-- The level of the RESETn pin (R185): low holds the part in its power-on state. -/
inductive PinLevel where
  | low
  | high
  deriving DecidableEq, Repr

/-- Why a low period of CSn is no frame: fewer than eight SCK edges (R169), or RESETn low at its start or during it (R186). -/
inductive ShortCause where
  | edges (n : Fin 8)
  | acrossReset
  deriving DecidableEq, Repr

/-- The commands and events the part takes. A command frame's operands are its supervisor sequence byte and its payload bytes
(R188); the layouts of spec/10 read its parameters out of the payload. -/
inductive Instr where
  | hostOffer (r : HostRequest)
  | grant
  | memoryResponse (m : MemResponse)
  | expiry (slot : Fin 16)
  | hostLinkReset
  | resetn (level : PinLevel)
  | wset (seq : Byte) (payload : List Byte)
  | wclear (seq : Byte) (payload : List Byte)
  | wdefault (seq : Byte) (payload : List Byte)
  | wread (seq : Byte) (payload : List Byte)
  | wstats (seq : Byte) (payload : List Byte)
  | wzero (seq : Byte) (payload : List Byte)
  | commit (seq : Byte) (payload : List Byte)
  | commitCompletion
  | tset (seq : Byte) (payload : List Byte)
  | hread (seq : Byte) (payload : List Byte)
  | hdata (seq : Byte) (payload : List Byte)
  | hdone (seq : Byte) (payload : List Byte)
  | hfwd (seq : Byte) (payload : List Byte)
  | hrefuse (seq : Byte) (payload : List Byte)
  | hrenew (seq : Byte) (payload : List Byte)
  | nfetch (seq : Byte) (payload : List Byte)
  | nack (seq : Byte) (payload : List Byte)
  | sload (seq : Byte) (payload : List Byte)
  | sdata (seq : Byte) (payload : List Byte)
  | scheck (seq : Byte) (payload : List Byte)
  | scheckCompletion
  | sabort (seq : Byte) (payload : List Byte)
  | sfree (seq : Byte) (payload : List Byte)
  | sread (seq : Byte) (payload : List Byte)
  | sinfo (seq : Byte) (payload : List Byte)
  | status (seq : Byte) (payload : List Byte)
  | clearall (seq : Byte) (payload : List Byte)
  | clearallCompletion
  /-- A poll frame; `rest` are the MOSI bytes clocked in after the code, which the part ignores (R171, R178). -/
  | poll (rest : List Byte)
  /-- A command frame as its complete bytes; `cut` says that its last byte was incomplete (R169, R173). -/
  | unexecutedFrame (bytes : List Byte) (cut : Bool)
  | shortFrame (why : ShortCause)
  deriving DecidableEq, Repr

/-- The service commands by name, in the order of the table of R189. -/
inductive Command where
  | wset | wclear | wdefault | wread | commit | wstats | wzero | tset
  | hread | hdata | hdone | hfwd | hrefuse | hrenew | nfetch | nack
  | sload | sdata | scheck | sabort | sfree | sread | sinfo | status | clearall
  deriving DecidableEq, Repr

end Sys2Proof
end

