-- ==== Sys2Proof/Machine/State.lean ====
section
/-! DEFINITION. Everything the manual gives the part to hold, block by block (spec/00, Blocks), and its power-on values. -/

namespace Sys2Proof.Machine

/-! ### Window table (spec/01) -/

/-- A policy (R1, R5). DISCARD is no read policy. -/
inductive Policy where
  | pass
  | serve
  | defer
  | deny
  | discard
  deriving DecidableEq, Repr

/-- What an expiry does with its request (R43). -/
inductive ExpiryAction where
  | expire
  | forward
  deriving DecidableEq, Repr

/-- The segment and segment offset of a window, present together (R1). -/
structure SegmentRef where
  segment : Fin 16
  offset : Nat
  deriving DecidableEq, Repr

/-- Trip count and fallback policies, present together (R1). -/
structure TripRecord where
  count : Nat
  readFallback : Policy
  writeFallback : Policy
  deriving DecidableEq, Repr

/-- A window record (R1). Its values at power-on are those of the initial record. -/
structure WindowRecord where
  enabled : Bool := false
  base : Addr := 0
  size : Nat := 64
  readPolicy : Policy := .pass
  writePolicy : Policy := .pass
  remap : Option Addr := none
  segment : Option SegmentRef := none
  ordered : Bool := false
  timeoutClass : Fin 4 := 0
  expiryAction : ExpiryAction := .expire
  trip : Option TripRecord := none
  deriving DecidableEq, Repr

/-- A policy of the default record (R2): DISCARD for writes only. -/
inductive DefaultPolicy where
  | pass
  | deny
  | discard
  deriving DecidableEq, Repr

/-- The default record (R2). -/
structure DefaultRecord where
  readPolicy : DefaultPolicy := .pass
  writePolicy : DefaultPolicy := .pass
  deriving DecidableEq, Repr

/-- The window table block (R3, R4). -/
structure WindowTable where
  staged : Vector WindowRecord 24
  active : Vector WindowRecord 24
  stagedDefault : DefaultRecord
  activeDefault : DefaultRecord
  tripRemaining : Vector Nat 24
  tripped : Vector Bool 24
  readsMatched : Vector Word32 24
  writesMatched : Vector Word32 24
  generation : BitVec 8
  deriving DecidableEq, Repr

/-! ### Hold table (spec/02) -/

/-- The policy of a decision record; SERVE carries its segment and image offset, a whole number (R9, R11). -/
inductive Ruling where
  | pass
  | serve (segment : Fin 16) (imageOffset : Nat)
  | defer
  | deny
  | discard
  deriving DecidableEq, Repr

/-- The decision record of a request that matched a window (R9). A default match is never held (R2), so no record of one is
kept. -/
structure Decision where
  window : Fin 24
  ruling : Ruling
  downstream : Addr
  timeoutClass : Fin 4
  expiryAction : ExpiryAction
  deriving DecidableEq, Repr

/-- The reason of a hold (R29). -/
inductive Reason where
  | defer
  | imageWait
  | order
  deriving DecidableEq, Repr

/-- How a slot's last use ended (R29, R30). -/
inductive LastOutcome where
  | none | answered | forwarded | refused | expired | served | passed | reset | cleared
  deriving DecidableEq, Repr

/-- Where a slot's HOLD notice stands (R29, R48). -/
inductive NoticeState where
  | none
  | queued
  | presented
  deriving DecidableEq, Repr

/-- What a slot holds while HELD (R29). The window field of R29 is the decision's. -/
structure Hold where
  reason : Reason
  req : HostRequest
  decision : Decision
  /-- Time remaining in units of 10 µs; absent for ORDER (R29, R38). -/
  deadline : Option Nat
  renewals : Nat
  notice : NoticeState
  deriving DecidableEq, Repr

/-- A hold slot (R29): FREE where it holds nothing. -/
structure Slot where
  use : BitVec 8
  last : LastOutcome
  hold : Option Hold
  deriving DecidableEq, Repr

/-- The hold table block: 16 slots and the timeout table (R29, R37). -/
structure HoldTable where
  slots : Vector Slot 16
  timeouts : Vector Nat 4
  deriving DecidableEq, Repr

/-! ### Notice queue (spec/05) -/

/-- The kinds of notice (R86). -/
inductive Kind where
  | hold | expiry | reqError | tagClash | linkReset | trip | imageFault | memoryFault | holdFull
  deriving DecidableEq, Repr

/-- The causes of a REQ_ERROR (R87). -/
inductive ReqCause where
  | malformed
  | straddle
  deriving DecidableEq, Repr

/-- The causes of an IMAGE_FAULT (R129). -/
inductive ImageCause where
  | crc | range | failed | freed | aborted
  deriving DecidableEq, Repr

/-- The origins of a MEMORY_FAULT with their address, absent when no request was issued (R87, R165). -/
inductive MemOrigin where
  | hostTag (tag : Fin 32) (addr : Addr)
  | orphan (addr : Addr)
  | unexpected
  deriving DecidableEq, Repr

/-- A notice's detail, by its kind (R87). -/
inductive Detail where
  | hold (slot : Fin 16) (use : BitVec 8) (op : Op) (window : Fin 24) (addr : Addr) (len : Byte)
  | expiry (slot : Fin 16) (use : BitVec 8) (window : Fin 24) (addr : Addr) (action : ExpiryAction)
  | reqError (tag : Fin 32) (addr : Addr) (cause : ReqCause)
  | tagClash (tag : Fin 32)
  | linkReset (holds orphans : Nat)
  | trip (window : Fin 24)
  | imageFault (segment : Fin 16) (cause : ImageCause)
  | memoryFault (tag : Fin 16) (origin : MemOrigin)
  | holdFull (tag : Fin 32) (window : Fin 24)
  deriving DecidableEq, Repr

/-- A notice queue entry (R86). -/
structure Notice where
  seq : Word16
  count : Nat
  detail : Detail
  deriving DecidableEq, Repr

/-- The notice queue block (R86, R88, R94, R101), head first. Only the head can be presented, so one mark serves the queue. -/
structure NoticeQueue where
  entries : List Notice
  presented : Bool
  counter : Word16
  attn : Bool
  deriving DecidableEq, Repr

/-! ### Image store (spec/06) -/

/-- The states of a segment that is not EMPTY (R108). -/
inductive LiveState where
  | loading
  | ready
  | failed
  deriving DecidableEq, Repr

/-- The geometry and cursor of a segment that is not EMPTY (R108). -/
structure Live where
  state : LiveState
  base : Nat
  length : Nat
  cursor : Nat
  deriving DecidableEq, Repr

/-- A segment record (R108): EMPTY where it has no geometry; the wait list holds slot numbers, oldest first (R109). -/
structure Segment where
  live : Option Live
  waiting : List (Fin 16)
  deriving DecidableEq, Repr

/-- The image store block: its bytes, as the positions that do not hold 0x00 (R107), and its segments. -/
structure ImageStore where
  bytes : List Host.Cell
  segments : Vector Segment 16
  deriving DecidableEq, Repr

/-! ### Host link and issue unit (spec/07, spec/08) -/

/-- Where the request of a busy host tag is (R136). -/
inductive TagPlace where
  | queued
  | forwarded (memTag : Fin 16)
  | held (slot : Fin 16)
  deriving DecidableEq, Repr

/-- A busy host tag entry (R136); the window is absent for DEFAULT. -/
structure TagEntry where
  place : TagPlace
  window : Option (Fin 24)
  member : Bool
  deriving DecidableEq, Repr

/-- The statuses of a host response (R134); their codes are HostStatus.code (R195). -/
inductive HostStatus where
  | ok | refused | expired | fault
  deriving DecidableEq, Repr

/-- A response on the host link (R134, R195): its 5 bits of tag, its status, which travels as the 2 bits of HostStatus.code, and its
data. -/
structure HostResponse where
  tag : Fin 32
  status : HostStatus
  data : List Byte
  deriving DecidableEq, Repr

/-- The admission unit's side of the host link: the host tag table, the request withheld while STALLED (absent while OPEN,
R146), and the responses handed over so far, oldest first, which is the model's record of the link's wires (log 10). -/
structure HostLink where
  tags : Vector (Option TagEntry) 32
  stalled : Option HostRequest
  sent : List HostResponse
  deriving DecidableEq, Repr

/-- An issue queue entry (R154). -/
structure IssueEntry where
  tag : Fin 32
  op : Op
  addr : Addr
  len : Byte
  mask : Option (List Bool)
  data : List Byte
  deriving DecidableEq, Repr

/-- A forward table entry (R159). -/
inductive Forward where
  | free
  | busy (tag : Fin 32) (op : Op) (len : Byte) (addr : Addr)
  | orphan (op : Op) (len : Byte) (addr : Addr)
  deriving DecidableEq, Repr

/-- A request as issued on the memory link (R157, R195). -/
structure MemRequest where
  tag : Fin 16
  op : Op
  addr : Addr
  len : Byte
  mask : Option (List Bool)
  data : List Byte
  deriving DecidableEq, Repr

/-- The issue unit block: issue queue, forward table, and the requests issued so far, oldest first, which is the model's record
of the link's wires (log 10). -/
structure IssueUnit where
  queue : List IssueEntry
  forward : Vector Forward 16
  sent : List MemRequest
  deriving DecidableEq, Repr

/-! ### Service port (spec/09) -/

/-- The results of a command (R181, R190). -/
inductive Result where
  | done | empty | stale | late | wrongState | wrongKind | badLength | limit | invalid | inUse | geometry | sequence
  | incomplete | mismatch | frameError | unknown
  deriving DecidableEq, Repr

/-- A response frame's contents (R179). -/
structure Response where
  code : Byte
  seq : Byte
  result : Result
  dropped : Bool
  overwritten : Bool
  payload : List Byte
  deriving DecidableEq, Repr

/-- The command in execution (R170, R177), with its supervisor sequence byte. -/
inductive Executing where
  | commit (seq : Byte)
  | scheck (seq : Byte) (segment : Fin 16) (crc : Word32)
  | clearall (seq : Byte)
  deriving DecidableEq, Repr

/-- The port state (R170): what executes is present only while BUSY, a response is held only while READY. -/
inductive PortPhase where
  | idle
  | busy (command : Executing)
  | ready (response : Response)
  deriving DecidableEq, Repr

/-- The service port block (R170), and the bytes it has shifted out on MISO, frame by frame, oldest first, which is the model's
record of that wire (log 10). -/
structure ServicePort where
  phase : PortPhase
  dropped : Bool
  overwritten : Bool
  miso : List (List Byte)
  deriving DecidableEq, Repr

/-! ### The whole part -/

/-- Why a step could stop with a fault. The manual gives the part no such stop, so there is no reason. -/
inductive Fault where
  deriving DecidableEq, Repr

/-- Why a step could refuse a command. -/
inductive Refusal where
  /-- Raised by an arm of exec whose command has no meaning yet; safe: nothing is claimed of it. No arm raises it now. -/
  | notModelled (mnemonic : String)
  deriving DecidableEq, Repr

/-- The state of the part, its RESETn pin, and the queue of commands that wait, first in, first out (log 1). -/
structure State where
  windows : WindowTable
  hold : HoldTable
  chains : Vector (List (Fin 32)) 24
  notices : NoticeQueue
  image : ImageStore
  host : HostLink
  issue : IssueUnit
  port : ServicePort
  resetn : PinLevel
  pending : List Instr
  deriving DecidableEq, Repr

/-- The part right after RESETn has risen (R185, with R27, R50, R54, R103, R130, R153, R166, R170). -/
def State.reset : State where
  windows :=
    { staged := Vector.replicate 24 {}
      active := Vector.replicate 24 {}
      stagedDefault := {}
      activeDefault := {}
      tripRemaining := Vector.replicate 24 0
      tripped := Vector.replicate 24 false
      readsMatched := Vector.replicate 24 0
      writesMatched := Vector.replicate 24 0
      generation := 0 }
  hold :=
    { slots := Vector.replicate 16 { use := 0, last := .none, hold := none }
      timeouts := Config.defaultTimeouts }
  chains := Vector.replicate 24 []
  notices := { entries := [], presented := false, counter := 0, attn := false }
  image := { bytes := [], segments := Vector.replicate 16 { live := none, waiting := [] } }
  host := { tags := Vector.replicate 32 none, stalled := none, sent := [] }
  issue := { queue := [], forward := Vector.replicate 16 .free, sent := [] }
  port := { phase := .idle, dropped := false, overwritten := false, miso := [] }
  resetn := .high
  pending := []

end Sys2Proof.Machine
end

