-- ==== Sys2Proof/Machine/Flags.lean ====
section
/-! DEFINITION. The two cyclic redundancy checks (R114, R172) and the frame checks that they feed (R173). -/

namespace Sys2Proof.Machine

/-! ### CRC-8 of frames (R172) -/

/-- One step of the CRC-8 register: shift left, and 0x07 in when a 1 was shifted out. -/
def crc8Step (r : Byte) : Byte :=
  if r.msb then (r <<< 1) ^^^ 0x07 else r <<< 1

/-- The CRC-8 register after one more byte. -/
def crc8Byte (r b : Byte) : Byte :=
  Nat.repeat crc8Step 8 (r ^^^ b)

/-- The CRC-8 of a list of bytes in the order they travel (R172). -/
def crc8 (bytes : List Byte) : Byte :=
  bytes.foldl crc8Byte 0

/-! ### CRC-32 of segments (R114) -/

/-- One step of the CRC-32 register: shift right, and 0xEDB88320 in when a 1 was shifted out. -/
def crc32Step (r : Word32) : Word32 :=
  if r.getLsbD 0 then (r >>> 1) ^^^ 0xEDB88320 else r >>> 1

/-- The CRC-32 register after one more byte, which enters at the low 8 bits. -/
def crc32Byte (r : Word32) (b : Byte) : Word32 :=
  Nat.repeat crc32Step 8 (r ^^^ b.setWidth 32)

/-- The CRC-32 of a segment's bytes in segment-offset order (R114). -/
def crc32 (bytes : List Byte) : Word32 :=
  bytes.foldl crc32Byte 0xFFFFFFFF ^^^ 0xFFFFFFFF

/-! ### Frame checks (R173) -/

/-- The causes of a FRAME_ERROR (R173). -/
inductive FrameCause where
  | oversize
  | length
  | crc
  deriving DecidableEq, Repr

/-- The frame checks of R173 on a frame's complete bytes, in their order; `cut` says that the last byte was incomplete. None is
a well-formed frame. -/
def frameFault (bytes : List Byte) (cut : Bool) : Option FrameCause :=
  match bytes with
  | _ :: _ :: len :: _ =>
    if Config.maxPayload < len.toNat then some .oversize
    else if cut ∨ bytes.length ≠ len.toNat + 4 then some .length
    else if bytes.getLastD 0 ≠ crc8 bytes.dropLast then some .crc
    else none
  | _ => some .length

/-- A command frame around a code, a supervisor sequence byte and a payload (R188). -/
def commandFrame (code seq : Byte) (payload : List Byte) : List Byte :=
  let body := code :: seq :: BitVec.ofNat 8 payload.length :: payload
  body ++ [crc8 body]

/-- The number of bytes of a command frame (R188). -/
def frameLength (payload : List Byte) : Nat :=
  payload.length + 4

end Sys2Proof.Machine
end

