-- ==== Sys2Proof/Machine/Operands.lean ====
section
/-! DEFINITION. How frames spell commands, parameters, results and records in bytes (spec/10). -/

namespace Sys2Proof.Machine

/-! ### Numbers and flags (R187) -/

/-- A number in n bytes, least significant byte first (R187). -/
def le : Nat → Nat → List Byte
  | 0, _ => []
  | n + 1, x => BitVec.ofNat 8 x :: le n (x / 256)

/-- The number that bytes spell, least significant byte first (R187). -/
def fromLE : List Byte → Nat
  | [] => 0
  | b :: rest => b.toNat + 256 * fromLE rest

/-- The byte whose bit k is flag k (R187). -/
def packByte (flags : List Bool) : Byte :=
  BitVec.ofNat 8 (flags.foldr (fun f n => f.toNat + 2 * n) 0)

/-- How many bytes a list of n flags takes (R187). -/
def flagBytes (n : Nat) : Nat := (n + 7) / 8

/-- A list of flags, packed with flag k in bit k mod 8 of byte k div 8 (R187). -/
def packFlags (flags : List Bool) : List Byte :=
  (List.range (flagBytes flags.length)).map fun i => packByte ((flags.drop (8 * i)).take 8)

/-- The n flags that packed bytes spell (R187). -/
def unpackFlags (n : Nat) (bytes : List Byte) : List Bool :=
  (List.range n).map fun k => (bytes.getD (k / 8) 0).getLsbD (k % 8)

/-! ### Codes of named sets (R187, R190) -/

/-- The policy codes of R187. -/
def Policy.code : Policy → Byte
  | .pass => 0x00
  | .serve => 0x01
  | .defer => 0x02
  | .deny => 0x03
  | .discard => 0x04

def Policy.ofCode (b : Byte) : Option Policy :=
  if b = 0x00 then some .pass
  else if b = 0x01 then some .serve
  else if b = 0x02 then some .defer
  else if b = 0x03 then some .deny
  else if b = 0x04 then some .discard
  else none

/-- A policy as a read policy: DISCARD is none (R1, R191). -/
def Policy.ofReadCode (b : Byte) : Option Policy :=
  if b = 0x04 then none else Policy.ofCode b

/-- The policy codes that the default record may hold (R191). -/
def DefaultPolicy.code : DefaultPolicy → Byte
  | .pass => 0x00
  | .deny => 0x03
  | .discard => 0x04

def DefaultPolicy.ofCode (b : Byte) : Option DefaultPolicy :=
  if b = 0x00 then some .pass
  else if b = 0x03 then some .deny
  else if b = 0x04 then some .discard
  else none

def DefaultPolicy.ofReadCode (b : Byte) : Option DefaultPolicy :=
  if b = 0x04 then none else DefaultPolicy.ofCode b

/-- The policy code of a decision record (R192). -/
def Ruling.code : Ruling → Byte
  | .pass => 0x00
  | .serve _ _ => 0x01
  | .defer => 0x02
  | .deny => 0x03
  | .discard => 0x04

def opCode : Op → Byte
  | .read => 0x00
  | .write => 0x01

def ExpiryAction.code : ExpiryAction → Byte
  | .expire => 0x00
  | .forward => 0x01

/-- The two status bits of a host response record (R187, R195); a memory response uses OK and FAULT of them. -/
def HostStatus.code : HostStatus → BitVec 2
  | .ok => 0
  | .refused => 1
  | .expired => 2
  | .fault => 3

/-- The host response status code as a byte of a frame (R187, R192). -/
def HostStatus.byte (x : HostStatus) : Byte := x.code.setWidth 8

def Reason.code : Reason → Byte
  | .defer => 0x01
  | .imageWait => 0x02
  | .order => 0x03

def LastOutcome.code : LastOutcome → Byte
  | .none => 0x00
  | .answered => 0x01
  | .forwarded => 0x02
  | .refused => 0x03
  | .expired => 0x04
  | .served => 0x05
  | .passed => 0x06
  | .reset => 0x07
  | .cleared => 0x08

def NoticeState.code : NoticeState → Byte
  | .none => 0x00
  | .queued => 0x01
  | .presented => 0x02

def Kind.code : Kind → Byte
  | .hold => 0x01
  | .expiry => 0x02
  | .reqError => 0x03
  | .tagClash => 0x04
  | .linkReset => 0x05
  | .trip => 0x06
  | .imageFault => 0x07
  | .memoryFault => 0x08
  | .holdFull => 0x09

def LiveState.code : LiveState → Byte
  | .loading => 0x01
  | .ready => 0x02
  | .failed => 0x03

/-- The segment state code: EMPTY 0x00 where the segment has no geometry (R187). -/
def Segment.stateCode (g : Segment) : Byte :=
  match g.live with
  | none => 0x00
  | some l => l.state.code

def ReqCause.code : ReqCause → Byte
  | .malformed => 0x01
  | .straddle => 0x02

def ImageCause.code : ImageCause → Byte
  | .crc => 0x01
  | .range => 0x02
  | .failed => 0x03
  | .freed => 0x04
  | .aborted => 0x05

def FrameCause.code : FrameCause → Byte
  | .oversize => 0x01
  | .length => 0x02
  | .crc => 0x03

/-- The result codes (R190). -/
def Result.code : Result → Byte
  | .done => 0x00
  | .empty => 0x01
  | .stale => 0x02
  | .late => 0x03
  | .wrongState => 0x04
  | .wrongKind => 0x05
  | .badLength => 0x06
  | .limit => 0x07
  | .invalid => 0x08
  | .inUse => 0x09
  | .geometry => 0x0A
  | .sequence => 0x0B
  | .incomplete => 0x0C
  | .mismatch => 0x0D
  | .frameError => 0x0E
  | .unknown => 0x0F

/-! ### Command codes (R189) -/

/-- The command codes of R189. -/
def commandCode : Command → Byte
  | .wset => 0x10
  | .wclear => 0x11
  | .wdefault => 0x12
  | .wread => 0x13
  | .commit => 0x14
  | .wstats => 0x15
  | .wzero => 0x16
  | .tset => 0x20
  | .hread => 0x30
  | .hdata => 0x31
  | .hdone => 0x32
  | .hfwd => 0x33
  | .hrefuse => 0x34
  | .hrenew => 0x35
  | .nfetch => 0x40
  | .nack => 0x41
  | .sload => 0x50
  | .sdata => 0x51
  | .scheck => 0x52
  | .sabort => 0x53
  | .sfree => 0x54
  | .sread => 0x55
  | .sinfo => 0x56
  | .status => 0x70
  | .clearall => 0x71

/-- Every command, in the order of R189. -/
def allCommands : List Command :=
  [.wset, .wclear, .wdefault, .wread, .commit, .wstats, .wzero, .tset, .hread, .hdata, .hdone, .hfwd, .hrefuse, .hrenew,
   .nfetch, .nack, .sload, .sdata, .scheck, .sabort, .sfree, .sread, .sinfo, .status, .clearall]

/-- The command a code names (R189); none for a code that names no command. -/
def commandOfCode (b : Byte) : Option Command :=
  allCommands.find? fun c => commandCode c = b

/-! ### Numbers in range -/

/-- A byte as an index below n; none where it is outside. -/
def indexOf (n : Nat) (b : Byte) : Option (Fin n) :=
  if h : b.toNat < n then some ⟨b.toNat, h⟩ else none

/-- The byte that names an index. -/
def indexByte {n : Nat} (i : Fin n) : Byte := BitVec.ofNat 8 i.val

/-! ### Window and default records (R191) -/

/-- The flags byte of a window record (R191). -/
def WindowRecord.flags (r : WindowRecord) : List Bool :=
  [r.enabled, r.ordered, r.expiryAction = .forward, r.remap.isSome, r.segment.isSome, r.trip.isSome]

/-- A window record in 26 bytes (R191). -/
def WindowRecord.encode (r : WindowRecord) : List Byte :=
  [packByte r.flags, r.readPolicy.code, r.writePolicy.code,
   (r.trip.map fun t => t.readFallback.code).getD 0, (r.trip.map fun t => t.writeFallback.code).getD 0,
   indexByte r.timeoutClass, (r.segment.map fun g => indexByte g.segment).getD 0] ++
  le 2 ((r.segment.map fun g => g.offset).getD 0) ++
  le 2 ((r.trip.map fun t => t.count).getD 0) ++
  le 5 r.base.toNat ++
  le 5 (r.size / Config.granule) ++
  le 5 ((r.remap.map fun a => a.toNat).getD 0)

/-- Whether one of the record's four policy fields is SERVE (R1). -/
def WindowRecord.usesServe (r : WindowRecord) : Bool :=
  r.readPolicy = .serve || r.writePolicy = .serve ||
  match r.trip with
  | none => false
  | some t => t.readFallback = .serve || t.writeFallback = .serve

/-- Base and size are multiples of 64 with base+size within the address space, size at least 64 (R1, R25). -/
def WindowRecord.rangeOk (r : WindowRecord) : Bool :=
  r.base.toNat % Config.granule = 0 && r.size % Config.granule = 0 && Config.granule ≤ r.size &&
  r.base.toNat + r.size ≤ Config.addressSpace

/-- A remap target, where present, is a multiple of 64 with target+size within the address space (R1, R25). -/
def WindowRecord.remapOk (r : WindowRecord) : Bool :=
  match r.remap with
  | none => true
  | some a => a.toNat % Config.granule = 0 && a.toNat + r.size ≤ Config.addressSpace

/-- The sets and pairings of R1 that its field types do not hold already. -/
def WindowRecord.valid (r : WindowRecord) : Bool :=
  r.rangeOk && r.remapOk && r.readPolicy ≠ .discard && (r.segment.isSome = r.usesServe) &&
  (match r.segment with
   | none => true
   | some g => g.offset % 8 = 0 && g.offset ≤ 16376) &&
  match r.trip with
  | none => true
  | some t => 1 ≤ t.count && t.count ≤ 65535 && t.readFallback ≠ .discard

/-- The trip fields of a window record from their bytes: none where they fit neither the layout nor their sets; `some none`
where they are absent and all 0 (R191). -/
def tripOfBytes (here : Bool) (fr fw : Byte) (count : Nat) : Option (Option TripRecord) :=
  if here then
    match Policy.ofReadCode fr, Policy.ofCode fw with
    | some r, some w => some (some { count := count, readFallback := r, writeFallback := w })
    | _, _ => none
  else if fr = 0 ∧ fw = 0 ∧ count = 0 then some none
  else none

/-- The segment fields of a window record from their bytes, as tripOfBytes does (R191). -/
def segmentOfBytes (here : Bool) (g : Byte) (offset : Nat) : Option (Option SegmentRef) :=
  if here then (indexOf 16 g).map fun i => some { segment := i, offset := offset }
  else if g = 0 ∧ offset = 0 then some none
  else none

/-- The remap target of a window record from its bytes, as tripOfBytes does (R191). -/
def remapOfBytes (here : Bool) (target : Nat) : Option (Option Addr) :=
  if here then some (some (BitVec.ofNat 40 target))
  else if target = 0 then some none
  else none

/-- The window record that bytes spell; none where they fail the layout check or a field or pairing lies outside R1, which
wset answers alike (R18, R191). -/
def WindowRecord.decode (b : List Byte) : Option WindowRecord :=
  if b.length = 26 ∧ (b.getD 0 0).getLsbD 6 = false ∧ (b.getD 0 0).getLsbD 7 = false then
    let bit (k : Nat) := (b.getD 0 0).getLsbD k
    match Policy.ofReadCode (b.getD 1 0), Policy.ofCode (b.getD 2 0), indexOf 4 (b.getD 5 0),
      tripOfBytes (bit 5) (b.getD 3 0) (b.getD 4 0) (fromLE ((b.drop 9).take 2)),
      segmentOfBytes (bit 4) (b.getD 6 0) (fromLE ((b.drop 7).take 2)),
      remapOfBytes (bit 3) (fromLE ((b.drop 21).take 5)) with
    | some rp, some wp, some cls, some trip, some seg, some remap =>
      let r : WindowRecord :=
        { enabled := bit 0
          base := BitVec.ofNat 40 (fromLE ((b.drop 11).take 5))
          size := Config.granule * fromLE ((b.drop 16).take 5)
          readPolicy := rp
          writePolicy := wp
          remap := remap
          segment := seg
          ordered := bit 1
          timeoutClass := cls
          expiryAction := if bit 2 then .forward else .expire
          trip := trip }
      if r.valid then some r else none
    | _, _, _, _, _, _ => none
  else none

/-- The default record in 2 bytes (R191). -/
def DefaultRecord.encode (d : DefaultRecord) : List Byte :=
  [d.readPolicy.code, d.writePolicy.code]

/-! ### Hold records (R192) -/

/-- The largest image offset a hold record carries (R192). -/
def shownOffset (n : Nat) : Nat := min n (2 ^ 40 - 1)

/-- The segment byte and image offset of a hold record; 0 where the decision has none (R192). -/
def Ruling.imageBytes : Ruling → List Byte
  | .serve g p => indexByte g :: le 5 (shownOffset p)
  | _ => List.replicate 6 0

/-- Whether a decision carries a segment and image offset (R192). -/
def Ruling.isServe : Ruling → Bool
  | .serve _ _ => true
  | _ => false

/-- The RECORD part of hread in 48 bytes (R192). -/
def holdRecord (k : Fin 16) (slot : Slot) (h : Hold) : List Byte :=
  [indexByte k, slot.use, h.reason.code, slot.last.code, indexByte h.req.tag, opCode h.req.op] ++
  le 5 h.req.addr.toNat ++
  [h.req.len, indexByte h.decision.window, h.decision.ruling.code] ++
  le 5 h.decision.downstream.toNat ++
  h.decision.ruling.imageBytes ++
  [indexByte h.decision.timeoutClass, h.decision.expiryAction.code] ++
  le 2 (h.deadline.getD 0) ++
  [BitVec.ofNat 8 h.renewals, h.notice.code,
   packByte [h.req.mask.isSome, h.deadline.isSome, h.decision.ruling.isServe]] ++
  (let m := packFlags (h.req.mask.getD [])
   m ++ List.replicate (16 - m.length) 0)

/-- The optional parts of an hfwd (R192). -/
structure FwdParts where
  addr : Option Nat
  mask : Option (List Bool)
  data : Option (List Byte)
  deriving DecidableEq, Repr

/-- The mask part of an hfwd: its flags and the bytes after it; none where there are too few bytes or a bit at or beyond the
count is set (R192). -/
def fwdMask (b : List Byte) : Option (List Bool × List Byte) :=
  match b with
  | [] => none
  | n :: rest =>
    let w := flagBytes n.toNat
    let flags := unpackFlags n.toNat (rest.take w)
    if w ≤ rest.length ∧ packFlags flags = rest.take w then some (flags, rest.drop w) else none

/-- The parts an hfwd selects, from its selector and the bytes after it; none where they fail the layout check (R192). -/
def fwdParts (sel : Byte) (b : List Byte) : Option FwdParts :=
  if 8 ≤ sel.toNat then none
  else if sel.getLsbD 0 ∧ b.length < 5 then none
  else
    let addr := if sel.getLsbD 0 then some (fromLE (b.take 5)) else none
    let b1 := if sel.getLsbD 0 then b.drop 5 else b
    match if sel.getLsbD 1 then (fwdMask b1).map fun p => (some p.1, p.2) else some (none, b1) with
    | none => none
    | some (mask, b2) =>
      if sel.getLsbD 2 then some { addr := addr, mask := mask, data := some b2 }
      else if b2 = [] then some { addr := addr, mask := mask, data := none }
      else none

/-! ### Notice records (R193) -/

/-- The kind of a detail (R87). -/
def Detail.kind : Detail → Kind
  | .hold .. => .hold
  | .expiry .. => .expiry
  | .reqError .. => .reqError
  | .tagClash .. => .tagClash
  | .linkReset .. => .linkReset
  | .trip .. => .trip
  | .imageFault .. => .imageFault
  | .memoryFault .. => .memoryFault
  | .holdFull .. => .holdFull

/-- A detail's bytes, before the padding to 10 (R193). -/
def Detail.encode : Detail → List Byte
  | .hold k u op w a n => [indexByte k, u, opCode op, indexByte w] ++ le 5 a.toNat ++ [n]
  | .expiry k u w a act => [indexByte k, u, indexByte w] ++ le 5 a.toNat ++ [act.code]
  | .reqError t a c => [indexByte t] ++ le 5 a.toNat ++ [c.code]
  | .tagClash t => [indexByte t]
  | .linkReset h o => [BitVec.ofNat 8 h, BitVec.ofNat 8 o]
  | .trip w => [indexByte w]
  | .imageFault g c => [indexByte g, c.code]
  | .memoryFault m (.hostTag t a) => [indexByte m, 0x01] ++ le 5 a.toNat ++ [indexByte t]
  | .memoryFault m (.orphan a) => [indexByte m, 0x01] ++ le 5 a.toNat ++ [0x40]
  | .memoryFault m .unexpected => [indexByte m, 0x00] ++ le 5 0 ++ [0x41]
  | .holdFull t w => [indexByte t, indexByte w]

/-- A notice in 14 bytes (R193). -/
def Notice.encode (n : Notice) : List Byte :=
  le 2 n.seq.toNat ++ [n.detail.kind.code, BitVec.ofNat 8 n.count] ++
  (n.detail.encode ++ List.replicate (10 - n.detail.encode.length) 0)

/-! ### Response and poll frames (R178, R179, R188) -/

/-- The bytes of a response frame before its CRC (R179, R188). -/
def Response.body (r : Response) : List Byte :=
  [r.code, r.seq, r.result.code, packByte [r.dropped, r.overwritten], BitVec.ofNat 8 r.payload.length] ++ r.payload

/-- A response frame (R179, R188). -/
def Response.frame (r : Response) : List Byte :=
  r.body ++ [crc8 r.body]

/-- The n bytes that MISO carries when it has `bs` to shift out: 0x00 after them (R169, R178). -/
def misoBytes (n : Nat) (bs : List Byte) : List Byte :=
  (List.range n).map fun i => bs.getD i 0

end Sys2Proof.Machine
end

