-- ==== Sys2Proof/WellFormed.lean ====
section
/-! DEFINITION. Which command terms are events of their row: a command frame is a well-formed frame (R173), and an
UNEXECUTED_FRAME is a command frame that executes nothing. -/

namespace Sys2Proof

open Machine

/-- The payload of a well-formed frame (R173, R188). -/
def payloadFits (payload : List Byte) : Bool := payload.length ≤ Config.maxPayload

/-- A command frame that fails a frame check or names no command (R173). -/
def executesNothing (bytes : List Byte) (cut : Bool) : Bool :=
  match bytes with
  | [] => false
  | code :: _ =>
    code ≠ Config.pollCode && ((frameFault bytes cut).isSome || (commandOfCode code).isNone)

/-- The command term is an event of its row. -/
def Instr.wellFormed : Instr → Bool
  | .hostOffer _ => true
  | .grant => true
  | .memoryResponse _ => true
  | .expiry _ => true
  | .hostLinkReset => true
  | .resetn _ => true
  | .wset _ p => payloadFits p
  | .wclear _ p => payloadFits p
  | .wdefault _ p => payloadFits p
  | .wread _ p => payloadFits p
  | .wstats _ p => payloadFits p
  | .wzero _ p => payloadFits p
  | .commit _ p => payloadFits p
  | .commitCompletion => true
  | .tset _ p => payloadFits p
  | .hread _ p => payloadFits p
  | .hdata _ p => payloadFits p
  | .hdone _ p => payloadFits p
  | .hfwd _ p => payloadFits p
  | .hrefuse _ p => payloadFits p
  | .hrenew _ p => payloadFits p
  | .nfetch _ p => payloadFits p
  | .nack _ p => payloadFits p
  | .sload _ p => payloadFits p
  | .sdata _ p => payloadFits p
  | .scheck _ p => payloadFits p
  | .scheckCompletion => true
  | .sabort _ p => payloadFits p
  | .sfree _ p => payloadFits p
  | .sread _ p => payloadFits p
  | .sinfo _ p => payloadFits p
  | .status _ p => payloadFits p
  | .clearall _ p => payloadFits p
  | .clearallCompletion => true
  | .poll _ => true
  | .unexecutedFrame b cut => executesNothing b cut
  | .shortFrame _ => true

end Sys2Proof
end

