-- ==== Sys2Proof/Decode.lean ====
section
/-! DEFINITION. Commands from words and from frames. The rows of spec/opcode_table.json give no bits, so no word spells a
command (log 17). What the service port receives does: a low period of CSn is read as one command (R169, R171, R173, R176), and
a command that is a frame is written back as its bytes (R188, R189). -/

namespace Sys2Proof

open Machine

/-- The command that a word spells by the table's bits: no row gives any (log 17). -/
def decodeTableWord (_nbits _w : Nat) : Option Instr := none

/-- A named command with its sequence byte and payload. -/
def instrOf (c : Command) (seq : Byte) (payload : List Byte) : Instr :=
  match c with
  | .wset => .wset seq payload
  | .wclear => .wclear seq payload
  | .wdefault => .wdefault seq payload
  | .wread => .wread seq payload
  | .commit => .commit seq payload
  | .wstats => .wstats seq payload
  | .wzero => .wzero seq payload
  | .tset => .tset seq payload
  | .hread => .hread seq payload
  | .hdata => .hdata seq payload
  | .hdone => .hdone seq payload
  | .hfwd => .hfwd seq payload
  | .hrefuse => .hrefuse seq payload
  | .hrenew => .hrenew seq payload
  | .nfetch => .nfetch seq payload
  | .nack => .nack seq payload
  | .sload => .sload seq payload
  | .sdata => .sdata seq payload
  | .scheck => .scheck seq payload
  | .sabort => .sabort seq payload
  | .sfree => .sfree seq payload
  | .sread => .sread seq payload
  | .sinfo => .sinfo seq payload
  | .status => .status seq payload
  | .clearall => .clearall seq payload

/-- A service command as its name, sequence byte and payload; none for what is no command frame with a known code. -/
def Instr.asCommand : Instr → Option (Command × Byte × List Byte)
  | .wset q p => some (.wset, q, p)
  | .wclear q p => some (.wclear, q, p)
  | .wdefault q p => some (.wdefault, q, p)
  | .wread q p => some (.wread, q, p)
  | .commit q p => some (.commit, q, p)
  | .wstats q p => some (.wstats, q, p)
  | .wzero q p => some (.wzero, q, p)
  | .tset q p => some (.tset, q, p)
  | .hread q p => some (.hread, q, p)
  | .hdata q p => some (.hdata, q, p)
  | .hdone q p => some (.hdone, q, p)
  | .hfwd q p => some (.hfwd, q, p)
  | .hrefuse q p => some (.hrefuse, q, p)
  | .hrenew q p => some (.hrenew, q, p)
  | .nfetch q p => some (.nfetch, q, p)
  | .nack q p => some (.nack, q, p)
  | .sload q p => some (.sload, q, p)
  | .sdata q p => some (.sdata, q, p)
  | .scheck q p => some (.scheck, q, p)
  | .sabort q p => some (.sabort, q, p)
  | .sfree q p => some (.sfree, q, p)
  | .sread q p => some (.sread, q, p)
  | .sinfo q p => some (.sinfo, q, p)
  | .status q p => some (.status, q, p)
  | .clearall q p => some (.clearall, q, p)
  | .hostOffer _ => none
  | .grant => none
  | .memoryResponse _ => none
  | .expiry _ => none
  | .hostLinkReset => none
  | .resetn _ => none
  | .commitCompletion => none
  | .scheckCompletion => none
  | .clearallCompletion => none
  | .poll _ => none
  | .unexecutedFrame _ _ => none
  | .shortFrame _ => none

/-- The command that a low period of CSn is, from its complete bytes and whether its last byte was incomplete; none where no
byte is complete, which is a SHORT_FRAME (R169, R171, R173, R176). -/
def decodeFrame (bytes : List Byte) (cut : Bool) : Option Instr :=
  match bytes with
  | [] => none
  | code :: rest =>
    if code = Config.pollCode then some (.poll rest)
    else
      match frameFault bytes cut, commandOfCode code with
      | none, some c => some (instrOf c (bytes.getD 1 0) ((bytes.drop 3).dropLast))
      | _, _ => some (.unexecutedFrame bytes cut)

/-- The bytes of a command that is a frame, and whether its last byte is incomplete (R188, R189). -/
def encodeFrame (i : Instr) : Option (List Byte × Bool) :=
  match i.asCommand with
  | some (c, seq, payload) => some (commandFrame (commandCode c) seq payload, false)
  | none =>
    match i with
    | .poll rest => some (Config.pollCode :: rest, false)
    | .unexecutedFrame bytes cut => some (bytes, cut)
    | _ => none

end Sys2Proof
end

