-- ==== Sys2Proof/Machine/Ops.lean ====
section
/-! DEFINITION. The operations that several commands share: tables, the image bytes, the notice queue, hold slots, host
responses, the issue queue, SERVE, order chains, wait lists, admission, and the service port's taking of frames. -/

namespace Sys2Proof.Machine

/-! ### Named updates of State, block by block -/

def State.setWindows (s : State) (x : WindowTable) : State := { s with windows := x }
def State.setHold (s : State) (x : HoldTable) : State := { s with hold := x }
def State.setChains (s : State) (x : Vector (List (Fin 32)) 24) : State := { s with chains := x }
def State.setNotices (s : State) (x : NoticeQueue) : State := { s with notices := x }
def State.setImage (s : State) (x : ImageStore) : State := { s with image := x }
def State.setHost (s : State) (x : HostLink) : State := { s with host := x }
def State.setIssue (s : State) (x : IssueUnit) : State := { s with issue := x }
def State.setPort (s : State) (x : ServicePort) : State := { s with port := x }
def State.setResetn (s : State) (x : PinLevel) : State := { s with resetn := x }
def State.setPending (s : State) (x : List Instr) : State := { s with pending := x }

/-- A table with every entry replaced, knowing its index. -/
def tableMap {α β : Type} {n : Nat} (f : Fin n → α → β) (v : Vector α n) : Vector β n :=
  ⟨(List.ofFn fun i => f i v[i]).toArray, by simp⟩

/-- The lowest index whose entry passes. -/
def lowest {α : Type} {n : Nat} (p : α → Bool) (v : Vector α n) : Option (Fin n) :=
  (List.finRange n).find? fun i => p v[i]

/-- How many entries pass. -/
def countWhere {α : Type} {n : Nat} (p : α → Bool) (v : Vector α n) : Nat :=
  v.toList.countP p

/-! ### The bytes of the image store (R107) -/

/-- What a listed position holds; 0x00 where it is not listed (R107, log 16). -/
def byteAt : List Host.Cell → Nat → Byte
  | [], _ => 0
  | (k, v) :: rest, a => if a = k then v else byteAt rest a

/-- The list with position a holding v, in the canonical form. -/
def storeCell : List Host.Cell → Nat → Byte → List Host.Cell
  | [], a, v => if v = 0 then [] else [(a, v)]
  | (k, w) :: rest, a, v =>
    if a < k then (if v = 0 then (k, w) :: rest else (a, v) :: (k, w) :: rest)
    else if a = k then (if v = 0 then rest else (a, v) :: rest)
    else (k, w) :: storeCell rest a v

/-- One byte written at a position of the store; there is none past its end (R107, log 16). -/
def writeByte (m : List Host.Cell) (a : Nat) (v : Byte) : List Host.Cell :=
  if a < Config.storeSize then storeCell m a v else m

/-- The n bytes from position a on. -/
def readBytes (m : List Host.Cell) (a n : Nat) : List Byte :=
  (List.range n).map fun i => byteAt m (a + i)

/-- Bytes written in order from position a on (R113). -/
def writeBytes (m : List Host.Cell) (a : Nat) : List Byte → List Host.Cell
  | [] => m
  | b :: rest => writeBytes (writeByte m a b) (a + 1) rest

/-- Bytes written from position a on where their flag is set (R123). -/
def writeEnabled (m : List Host.Cell) (a : Nat) : List Byte → List Bool → List Host.Cell
  | b :: bs, f :: fs => writeEnabled (if f then writeByte m a b else m) (a + 1) bs fs
  | _, _ => m

/-- The canonical form: positions strictly rising, all inside the store, and no 0x00 listed. -/
def Memory.wf (m : List Host.Cell) : Bool :=
  decide (m.Pairwise fun c d => c.1 < d.1) && m.all fun c => c.1 < Config.storeSize && c.2 ≠ 0

/-! ### The notice queue (spec/05) -/

/-- The presented head, as a list of one entry or none (R94). -/
def NoticeQueue.fixed (q : NoticeQueue) : List Notice :=
  if q.presented then q.entries.take 1 else []

/-- The unpresented entries, in order (R86). -/
def NoticeQueue.unpresented (q : NoticeQueue) : List Notice :=
  if q.presented then q.entries.drop 1 else q.entries

/-- The queue with its entries replaced, ATTN following it (R101). -/
def NoticeQueue.withEntries (q : NoticeQueue) (es : List Notice) : NoticeQueue :=
  { q with entries := es, attn := !es.isEmpty }

/-- A new entry at the tail under the counter's number (R88, R90). -/
def NoticeQueue.append (q : NoticeQueue) (d : Detail) : NoticeQueue :=
  { q.withEntries (q.entries ++ [{ seq := q.counter, count := 1, detail := d }]) with counter := q.counter + 1 }

/-- An entry with one more occurrence, saturating at 255 (R91). -/
def Notice.bump (n : Notice) : Notice :=
  { n with count := if n.count < Config.maxCount then n.count + 1 else n.count }

/-- The first entry of a kind with one more occurrence; none where there is no such entry (R91). -/
def mergeKind (k : Kind) : List Notice → Option (List Notice)
  | [] => none
  | n :: rest => if n.detail.kind = k then some (n.bump :: rest) else (mergeKind k rest).map (n :: ·)

/-- An event posted: merged into an unpresented entry of its kind, or appended (R91). -/
def NoticeQueue.post (q : NoticeQueue) (d : Detail) : NoticeQueue :=
  match mergeKind d.kind q.unpresented with
  | some es => { q with entries := q.fixed ++ es }
  | none => q.append d

/-- Whether an entry is the HOLD notice of a slot. -/
def Notice.isHoldOf (k : Fin 16) (n : Notice) : Bool :=
  match n.detail with
  | .hold j _ _ _ _ _ => j = k
  | _ => false

/-- The entries without the HOLD notice of slot k, those behind it renumbered; none where there is no such entry (R93). -/
def dropHold (k : Fin 16) : List Notice → Option (List Notice)
  | [] => none
  | n :: rest =>
    if n.isHoldOf k then some (rest.map fun m => { m with seq := m.seq - 1 })
    else (dropHold k rest).map (n :: ·)

/-- The unpresented HOLD notice of slot k withdrawn, the counter going back by one (R89, R93, log 19). -/
def NoticeQueue.withdraw (q : NoticeQueue) (k : Fin 16) : NoticeQueue :=
  match dropHold k q.unpresented with
  | some es => { q.withEntries (q.fixed ++ es) with counter := q.counter - 1 }
  | none => q

/-- The queue without its head, the next entry unpresented (R97). -/
def NoticeQueue.removeHead (q : NoticeQueue) : NoticeQueue :=
  { q.withEntries (q.entries.drop 1) with presented := false }

/-- The queue emptied, its counter kept (R105, log 13). -/
def NoticeQueue.clear (q : NoticeQueue) : NoticeQueue :=
  { q.withEntries [] with presented := false }

/-- A block posts an event (R91). -/
def State.post (s : State) (d : Detail) : State := s.setNotices (s.notices.post d)

/-! ### Hold slots (spec/02) -/

/-- The lowest-numbered FREE slot (R31). -/
def HoldTable.lowestFree (h : HoldTable) : Option (Fin 16) :=
  lowest (fun x => x.hold.isNone) h.slots

/-- How many slots are HELD. -/
def HoldTable.heldCount (h : HoldTable) : Nat :=
  countWhere (fun x => x.hold.isSome) h.slots

/-- How many slots are HELD for a reason (R182). -/
def HoldTable.heldFor (h : HoldTable) (r : Reason) : Nat :=
  countWhere (fun x => (x.hold.map fun y => y.reason) = some r) h.slots

/-- The length a deadline of a class starts with (R38). -/
def HoldTable.lengthOf (h : HoldTable) (d : Decision) : Nat := h.timeouts[d.timeoutClass]

/-- A slot's hold replaced, its use number and last outcome kept (R30, R33). -/
def State.putHold (s : State) (k : Fin 16) (h : Hold) : State :=
  s.setHold { s.hold with slots := s.hold.slots.set k { s.hold.slots[k] with hold := some h } }

/-- A slot's record after it is freed (R30, R34). -/
def Slot.free (x : Slot) (o : LastOutcome) : Slot :=
  { use := x.use + 1, last := o, hold := none }

/-- A slot freed with an outcome, its HOLD notice withdrawn if that is still unpresented, whatever the hold's notice state says of it
(R34, R49, R93, log 22). -/
def State.freeSlot (s : State) (k : Fin 16) (o : LastOutcome) : State :=
  match s.hold.slots[k].hold with
  | none => s
  | some _ =>
    (s.setHold { s.hold with slots := s.hold.slots.set k (s.hold.slots[k].free o) }).setNotices (s.notices.withdraw k)

/-- The hold of an accepted request before its reason is known (R31). -/
def Hold.start (r : HostRequest) (d : Decision) : Hold :=
  { reason := .order, req := r, decision := d, deadline := none, renewals := 0, notice := .none }

/-- A slot held for DEFER, at admission or at a chain head: its deadline starts and its HOLD notice is posted (R33, R38, R47). -/
def State.holdDefer (s : State) (k : Fin 16) (h : Hold) : State :=
  let t := s.putHold k
    { h with reason := .defer, deadline := some (s.hold.lengthOf h.decision), renewals := 0, notice := .queued }
  t.setNotices (s.notices.append
    (.hold k s.hold.slots[k].use h.req.op h.decision.window h.req.addr h.req.len))

/-- A segment's wait list replaced. -/
def ImageStore.setWaiting (m : ImageStore) (g : Fin 16) (l : List (Fin 16)) : ImageStore :=
  { m with segments := m.segments.set g { m.segments[g] with waiting := l } }

/-- A slot held for IMAGE_WAIT, at admission or at a chain head: its deadline starts and it joins the tail of the segment's wait
list (R33, R38, R124). -/
def State.holdImageWait (s : State) (k : Fin 16) (h : Hold) (g : Fin 16) : State :=
  (s.putHold k
    { h with reason := .imageWait, deadline := some (s.hold.lengthOf h.decision), renewals := 0, notice := .none }).setImage
    (s.image.setWaiting g (s.image.segments[g].waiting ++ [k]))

/-- A slot removed from every wait list, the others keeping their order (R36). -/
def ImageStore.leaveLists (m : ImageStore) (k : Fin 16) : ImageStore :=
  { m with segments := tableMap (fun _ g => { g with waiting := g.waiting.filter fun j => j ≠ k }) m.segments }

/-- The time remaining after r units of 10 µs (R38, R39). -/
def Slot.elapse (r : Nat) (x : Slot) : Slot :=
  { x with hold := x.hold.map fun h => { h with deadline := h.deadline.map fun d => d - r } }

/-- r units of 10 µs pass: every running deadline counts down, and one that has run out stays at 0 (R39, R192, log 2). -/
def HoldTable.elapse (h : HoldTable) (r : Nat) : HoldTable :=
  { h with slots := tableMap (fun _ x => x.elapse r) h.slots }

/-! ### Host responses, host tags and the issue queue (spec/07, spec/08) -/

/-- A response handed to the host link, and so sent (R145). -/
def State.respond (s : State) (t : Fin 32) (st : HostStatus) (data : List Byte) : State :=
  s.setHost { s.host with sent := s.host.sent ++ [{ tag := t, status := st, data := data }] }

/-- A host tag entry replaced. -/
def State.setTag (s : State) (t : Fin 32) (e : Option TagEntry) : State :=
  s.setHost { s.host with tags := s.host.tags.set t e }

/-- A busy host tag entry in another place, its window and member mark kept (R137). -/
def State.moveTag (s : State) (t : Fin 32) (p : TagPlace) : State :=
  s.setTag t (s.host.tags[t].map fun e => { e with place := p })

/-- The issue queue entry of a request at an address (R154). -/
def issueEntry (r : HostRequest) (a : Addr) : IssueEntry :=
  { tag := r.tag, op := r.op, addr := a, len := r.len, mask := r.mask, data := r.data }

/-- An entry appended to the tail of the issue queue (R155). -/
def State.enqueue (s : State) (e : IssueEntry) : State :=
  s.setIssue { s.issue with queue := s.issue.queue ++ [e] }

/-- The lowest FREE memory tag (R156). -/
def IssueUnit.lowestFree (u : IssueUnit) : Option (Fin 16) :=
  lowest (fun f => f = .free) u.forward

/-- The offer on the memory link: the head entry under the lowest FREE memory tag (R156). -/
def IssueUnit.offer (u : IssueUnit) : Option (IssueEntry × Fin 16) :=
  match u.queue, u.lowestFree with
  | e :: _, some m => some (e, m)
  | _, _ => none

/-- A held request answered from its slot: the response sent, the slot freed, the host tag FREE (R34, R35, R145). -/
def State.answerSlot (s : State) (k : Fin 16) (h : Hold) (st : HostStatus) (data : List Byte) (o : LastOutcome) : State :=
  ((s.respond h.req.tag st data).freeSlot k o).setTag h.req.tag none

/-- A held request put into the issue queue: appended, the slot freed, the host tag QUEUED (R34, R35). -/
def State.forwardSlot (s : State) (k : Fin 16) (h : Hold) (e : IssueEntry) (o : LastOutcome) : State :=
  ((s.enqueue e).freeSlot k o).moveTag h.req.tag .queued

/-! ### SERVE (spec/06) -/

/-- A segment's state is LOADING. -/
def ImageStore.isLoading (m : ImageStore) (g : Fin 16) : Bool :=
  (m.segments[g].live.map fun l => l.state) = some .loading

/-- The byte-enable flags of a write: all set without a mask (R133). -/
def writeFlags (r : HostRequest) : List Bool :=
  r.mask.getD (List.replicate r.data.length true)

/-- What serving a request within its segment does to the bytes (R123). -/
def ImageStore.serveBytes (m : ImageStore) (at_ : Nat) (r : HostRequest) : List Host.Cell :=
  match r.op with
  | .read => m.bytes
  | .write => writeEnabled m.bytes at_ r.data (writeFlags r)

/-- The data of an OK response served within a segment (R123). -/
def ImageStore.serveData (m : ImageStore) (at_ : Nat) (r : HostRequest) : List Byte :=
  match r.op with
  | .read => readBytes m.bytes at_ r.len.toNat
  | .write => []

/-- A SERVE request acted on against a segment that is not LOADING: the state after, and the data of its OK response or none
for FAULT, with the IMAGE_FAULT that goes with it (R122, R123, R125). -/
def State.serve (s : State) (g : Fin 16) (p : Nat) (r : HostRequest) : State × Option (List Byte) :=
  match s.image.segments[g].live with
  | some l =>
    if l.state = .ready then
      if p + r.len.toNat ≤ l.length then
        (s.setImage { s.image with bytes := s.image.serveBytes (l.base + p) r }, some (s.image.serveData (l.base + p) r))
      else (s.post (.imageFault g .range), none)
    else (s.post (.imageFault g .failed), none)
  | none => (s.post (.imageFault g .failed), none)

/-- A held SERVE request answered by what serving it gave (R61, R126). -/
def State.answerServed (s : State) (k : Fin 16) (h : Hold) (out : Option (List Byte)) : State :=
  match out with
  | some data => s.answerSlot k h .ok data .served
  | none => s.answerSlot k h .fault [] .refused

/-! ### Order chains (spec/03) -/

/-- A chain replaced. -/
def State.setChain (s : State) (w : Fin 24) (l : List (Fin 32)) : State := s.setChains (s.chains.set w l)

/-- The slot that holds a host tag's request (R31, R136). -/
def State.slotOf (s : State) (t : Fin 32) : Option (Fin 16 × Hold) :=
  match s.host.tags[t] with
  | some { place := .held k, .. } => s.hold.slots[k].hold.map fun h => (k, h)
  | _ => none

/-- A member that has become head, by its decision's policy (R61): the state after, and whether the cascade continues. -/
def State.startHead (s : State) (k : Fin 16) (h : Hold) : State × Bool :=
  match h.decision.ruling with
  | .pass => (s.forwardSlot k h (issueEntry h.req h.decision.downstream) .passed, false)
  | .defer => (s.holdDefer k h, false)
  | .serve g p =>
    if s.image.isLoading g then (s.holdImageWait k h g, false)
    else
      let r := s.serve g p h.req
      (r.1.answerServed k h r.2, true)
  | .deny => (s.answerSlot k h .refused [] .refused, true)
  | .discard => (s.answerSlot k h .ok [] .answered, true)

/-- The cascade of chain w over the members left, head first (R60 to R62). -/
def State.cascade (w : Fin 24) : List (Fin 32) → State → State
  | [], s => s.setChain w []
  | t :: rest, s =>
    match s.slotOf t with
    | none => s.setChain w (t :: rest)
    | some (k, h) =>
      match s.startHead k h with
      | (s', true) => State.cascade w rest s'
      | (s', false) => s'.setChain w (t :: rest)

/-- The advance of a chain whose head's response has been sent, from the entry the head's tag had (R59, R60). -/
def State.advance (s : State) (t : Fin 32) (e : Option TagEntry) : State :=
  match e with
  | some { member := true, window := some w, .. } =>
    match s.chains[w] with
    | u :: rest => if u = t then s.cascade w rest else s
    | [] => s
  | _ => s

/-- A hold ended by answering it: response, slot, host tag, and the advance of its chain (R35, R72). -/
def State.endHold (s : State) (k : Fin 16) (h : Hold) (st : HostStatus) (data : List Byte) (o : LastOutcome) : State :=
  (s.answerSlot k h st data o).advance h.req.tag s.host.tags[h.req.tag]

/-! ### Working through a wait list (R126) -/

/-- One member of a wait list that is worked through (R126): removed, then answered by the segment's new state, its chain
advancing before the next member is taken (R63). -/
def State.workMember (g : Fin 16) (s : State) (k : Fin 16) : State :=
  let s := s.setImage (s.image.setWaiting g (s.image.segments[g].waiting.filter fun j => j ≠ k))
  match s.hold.slots[k].hold with
  | none => s
  | some h =>
    match s.image.segments[g].live, h.decision.ruling with
    | some { state := .ready, .. }, .serve _ p =>
      let r := s.serve g p h.req
      (r.1.answerServed k h r.2).advance h.req.tag r.1.host.tags[h.req.tag]
    | _, _ => s.endHold k h .fault [] .refused

/-- A segment's wait list worked through, oldest first (R126). -/
def State.workThrough (s : State) (g : Fin 16) : State :=
  s.image.segments[g].waiting.foldl (State.workMember g) s

/-! ### Matching and admission (spec/01, spec/07) -/

/-- A window's range contains an address (R1). -/
def WindowRecord.contains (r : WindowRecord) (a : Addr) : Bool :=
  r.enabled && r.base.toNat ≤ a.toNat && a.toNat < r.base.toNat + r.size

/-- The enabled window that contains an address, or none for DEFAULT (R6). -/
def WindowTable.matched (t : WindowTable) (a : Addr) : Option (Fin 24) :=
  lowest (fun r => r.contains a) t.active

/-- n bytes from an address lie in one 128-byte-aligned block (R7, R76, R133). -/
def inOneBlock (a n : Nat) : Bool := a % Config.block + n ≤ Config.block

/-- Where a window sends an address (R10). -/
def WindowRecord.downstream (r : WindowRecord) (a : Addr) : Nat :=
  match r.remap with
  | none => a.toNat
  | some t => t.toNat + (a.toNat - r.base.toNat)

/-- The straddle check of a request matched to a window (R7). -/
def WindowRecord.holdsRange (r : WindowRecord) (a : Addr) (n : Nat) : Bool :=
  a.toNat + n ≤ r.base.toNat + r.size && (r.remap.isNone || inOneBlock (r.downstream a) n)

/-- Some of n bytes from an address lie in an enabled window (R8). -/
def WindowRecord.meets (r : WindowRecord) (a : Addr) (n : Nat) : Bool :=
  r.enabled && r.base.toNat < a.toNat + n && a.toNat < r.base.toNat + r.size

/-- The straddle check of a request against its match (R7, R8): true where the request straddles. -/
def WindowTable.straddles (t : WindowTable) (m : Option (Fin 24)) (a : Addr) (n : Nat) : Bool :=
  match m with
  | some w => !t.active[w].holdsRange a n
  | none => t.active.toList.any fun r => r.meets a n

/-- The malformed request check (R140). -/
def malformed (r : HostRequest) : Bool :=
  r.len = 0 || !inOneBlock r.addr.toNat r.len.toNat ||
  match r.op with
  | .read => r.mask.isSome || r.data ≠ []
  | .write => r.data.length ≠ r.len.toNat || (match r.mask with | none => false | some m => m.length ≠ r.len.toNat)

/-- The policy of a window for an operation (R9). -/
def WindowRecord.policyFor (r : WindowRecord) (o : Op) : Policy :=
  match o with
  | .read => r.readPolicy
  | .write => r.writePolicy

/-- The policy of the default record for an operation (R9). -/
def DefaultRecord.policyFor (d : DefaultRecord) (o : Op) : DefaultPolicy :=
  match o with
  | .read => d.readPolicy
  | .write => d.writePolicy

/-- The segment and offset of a window that uses SERVE; every such window has them (R1, log 15). -/
def WindowRecord.servedFrom (r : WindowRecord) : SegmentRef :=
  r.segment.getD { segment := 0, offset := 0 }

/-- The policy of a decision with its segment and image offset (R9, R11). -/
def WindowRecord.rulingFor (r : WindowRecord) (o : Op) (a : Addr) : Ruling :=
  match r.policyFor o with
  | .pass => .pass
  | .serve => .serve r.servedFrom.segment (r.servedFrom.offset + (a.toNat - r.base.toNat))
  | .defer => .defer
  | .deny => .deny
  | .discard => .discard

/-- The decision record of a request matched to window w (R9 to R11). -/
def WindowTable.decide (t : WindowTable) (w : Fin 24) (r : HostRequest) : Decision :=
  { window := w
    ruling := t.active[w].rulingFor r.op r.addr
    downstream := BitVec.ofNat 40 (t.active[w].downstream r.addr)
    timeoutClass := t.active[w].timeoutClass
    expiryAction := t.active[w].expiryAction }

/-- A window's trip remaining decreased, its fallback policies taken and tripped set where the trip fires (R13, R14). -/
def WindowTable.countTrip (t : WindowTable) (w : Fin 24) : WindowTable :=
  let left := t.tripRemaining[w]
  if left = 0 then t
  else
    let t := { t with tripRemaining := t.tripRemaining.set w (left - 1) }
    if left = 1 then
      let r := t.active[w]
      let r' := match r.trip with
        | none => r
        | some f => { r with readPolicy := f.readFallback, writePolicy := f.writeFallback }
      { t with active := t.active.set w r', tripped := t.tripped.set w true }
    else t

/-- Whether the trip of window w fires at the next request it counts (R14). -/
def WindowTable.tripDue (t : WindowTable) (w : Fin 24) : Bool := t.tripRemaining[w] = 1

/-- A window's statistics after one more request (R16). -/
def WindowTable.countMatch (t : WindowTable) (w : Fin 24) (o : Op) : WindowTable :=
  match o with
  | .read => { t with readsMatched := t.readsMatched.set w (t.readsMatched[w] + 1) }
  | .write => { t with writesMatched := t.writesMatched.set w (t.writesMatched[w] + 1) }

/-- Trip and statistics taken at the acceptance of a request matched to window w (R13, R14, R16). -/
def State.countAccepted (s : State) (w : Fin 24) (o : Op) : State :=
  let t := s.setWindows ((s.windows.countTrip w).countMatch w o)
  if s.windows.tripDue w then t.post (.trip w) else t

/-- The matched window is ordered and its chain is not empty (R58, R142). -/
def State.needsOrder (s : State) (w : Fin 24) : Bool :=
  s.windows.active[w].ordered && !s.chains[w].isEmpty

/-- The decision needs a hold slot (R142). -/
def State.needsSlot (s : State) (d : Decision) : Bool :=
  s.needsOrder d.window ||
  match d.ruling with
  | .defer => true
  | .serve g _ => s.image.isLoading g
  | _ => false

/-- A request that leaves its admission busy: its host tag entry, and its place at the tail of its window's chain where the
window is ordered (R57, R58, R137, R143). -/
def State.enter (s : State) (t : Fin 32) (w : Fin 24) (p : TagPlace) : State :=
  let ord := s.windows.active[w].ordered
  let s' := s.setTag t (some { place := p, window := some w, member := ord })
  if ord then s'.setChain w (s.chains[w] ++ [t]) else s'

/-- The dispatch of a request accepted to a window, with the slot it takes where it needs one (R57, R58, R143). -/
def State.dispatch (s : State) (r : HostRequest) (d : Decision) (slot : Option (Fin 16)) : State :=
  match s.needsOrder d.window, d.ruling, slot with
  | true, _, some k => (s.putHold k (Hold.start r d)).enter r.tag d.window (.held k)
  | false, .defer, some k => (s.holdDefer k (Hold.start r d)).enter r.tag d.window (.held k)
  | false, .pass, _ => (s.enqueue (issueEntry r d.downstream)).enter r.tag d.window .queued
  | false, .deny, _ => s.respond r.tag .refused []
  | false, .discard, _ => s.respond r.tag .ok []
  | false, .serve g p, slot =>
    if s.image.isLoading g then
      match slot with
      | some k => (s.holdImageWait k (Hold.start r d) g).enter r.tag d.window (.held k)
      | none => s
    else
      let out := s.serve g p r
      match out.2 with
      | some data => out.1.respond r.tag .ok data
      | none => out.1.respond r.tag .fault []
  | _, _, none => s

/-- The dispatch of a request accepted to the default record: never held, never in a chain (R2, R143). -/
def State.dispatchDefault (s : State) (r : HostRequest) : State :=
  match s.windows.activeDefault.policyFor r.op with
  | .pass =>
    (s.enqueue (issueEntry r r.addr)).setTag r.tag (some { place := .queued, window := none, member := false })
  | .deny => s.respond r.tag .refused []
  | .discard => s.respond r.tag .ok []

/-- The link OPEN (R148). -/
def State.openLink (s : State) : State := s.setHost { s.host with stalled := none }

/-- The link STALLED on a request, at the start of the stall (R146). -/
def State.stall (s : State) (r : HostRequest) (w : Fin 24) : State :=
  (s.setHost { s.host with stalled := some r }).post (.holdFull r.tag w)

/-- One evaluation of an offered request through the five checks (R138). `again` says that it is the request the link is STALLED
on, evaluated afresh (R148): a request still withheld then posts nothing (R146). -/
def State.evaluate (again : Bool) (r : HostRequest) (s : State) : State :=
  if s.host.tags[r.tag].isSome then s.openLink.post (.tagClash r.tag)
  else if malformed r then (s.openLink.post (.reqError r.tag r.addr .malformed)).respond r.tag .fault []
  else
    let m := s.windows.matched r.addr
    if s.windows.straddles m r.addr r.len.toNat then
      (s.openLink.post (.reqError r.tag r.addr .straddle)).respond r.tag .fault []
    else
      match m with
      | none => s.openLink.dispatchDefault r
      | some w =>
        let d := s.windows.decide w r
        let slot := s.hold.lowestFree
        if s.needsSlot d && slot.isNone then (if again then s else s.stall r w)
        else (s.openLink.countAccepted w r.op).dispatch r d slot

/-- The freeing an event reports when it ends: where it freed a slot, the request the link is STALLED on is evaluated afresh
(R32, R148). -/
def State.reportFreeing (s : State) (before : State) : State :=
  match s.host.stalled with
  | some r => if s.hold.heldCount < before.hold.heldCount then s.evaluate true r else s
  | none => s

/-! ### Taking a frame at the service port (spec/09) -/

/-- What a command answers: its result and payload, and the state it leaves (R181, R190). -/
structure Answer where
  result : Result
  payload : List Byte
  after : State

/-- An answer that changes nothing (R181). -/
def State.answers (s : State) (r : Result) (payload : List Byte) : Answer :=
  { result := r, payload := payload, after := s }

/-- A frame's bytes shifted out on MISO (R169). -/
def State.shiftOut (s : State) (bytes : List Byte) : State :=
  s.setPort { s.port with miso := s.port.miso ++ [bytes] }

/-- The response made ready, with both flags, which are then clear (R179). -/
def State.makeReady (s : State) (code seq : Byte) (r : Result) (payload : List Byte) : State :=
  s.setPort
    { s.port with
      phase := .ready
        { code := code, seq := seq, result := r, dropped := s.port.dropped, overwritten := s.port.overwritten,
          payload := payload }
      dropped := false
      overwritten := false }

/-- A command frame of n bytes taken: dropped while BUSY, discarding a held response while READY, and then handled (R169, R174,
R175). -/
def State.takeFrame (s : State) (n : Nat) (handle : State → State) : State :=
  let s := s.shiftOut (List.replicate n 0)
  match s.port.phase with
  | .busy _ => s.setPort { s.port with dropped := true }
  | .ready _ => handle (s.setPort { s.port with phase := .idle, overwritten := true })
  | .idle => handle s

/-- An immediate command: its answer becomes the held response in the event of its taking (R176). -/
def State.immediately (s : State) (c : Command) (seq : Byte) (body : State → Answer) : State :=
  let a := body s
  a.after.makeReady (commandCode c) seq a.result a.payload

/-- An event of a part that RESETn does not hold in its power-on state; while it does, nothing is taken (R185, R186). -/
def running (s : State) (event : State → State) : Host.Outcome State Fault Refusal :=
  match s.resetn with
  | .high => .next (event s)
  | .low => .next s

end Sys2Proof.Machine
end

