-- ==== Sys2Proof/Machine/Decisions.lean ====
section
/-! DEFINITION. The timeout command and the supervisor's decisions (spec/02, spec/04). -/

namespace Sys2Proof.Machine

/-- tset's check and effect (R40). -/
def tsetBody (payload : List Byte) (s : State) : Answer :=
  match payload with
  | [c, v0, v1] =>
    match indexOf 4 c with
    | some i =>
      if fromLE [v0, v1] = 0 then s.answers .invalid []
      else
        { result := .done, payload := []
          after := s.setHold { s.hold with timeouts := s.hold.timeouts.set i (fromLE [v0, v1]) } }
    | none => s.answers .invalid []
  | _ => s.answers .invalid []

/-- The payload of STALE and LATE (R69, R190). -/
def Slot.shown (x : Slot) : List Byte :=
  [if x.hold.isSome then 0x01 else 0x00, x.use, x.last.code]

/-- The slot and use checks of a decision command (R68, R69): what follows them for a current hold. `decides` is no for hread,
which is never LATE. -/
def State.withCurrent (s : State) (slot use : Byte) (decides : Bool) (f : Fin 16 → Hold → Answer) : Answer :=
  match indexOf 16 slot with
  | none => s.answers .invalid []
  | some k =>
    let x := s.hold.slots[k]
    let stale := s.answers
      (if decides && use = x.use - 1 && x.last = .expired then .late else .stale) x.shown
    match x.hold with
    | some h => if use = x.use then f k h else stale
    | none => stale

/-- The checks of a decision other than hread up to the reason check (R68 to R70). -/
def State.withDefer (s : State) (slot use : Byte) (f : Fin 16 → Hold → Answer) : Answer :=
  s.withCurrent slot use true fun k h =>
    if h.reason = .defer then f k h else s.answers .wrongState [h.reason.code]

/-- hread's checks and answer (R71, R73). -/
def hreadBody (payload : List Byte) (s : State) : Answer :=
  match payload with
  | [slot, use, part] =>
    s.withCurrent slot use false fun k h =>
      if part = 0x01 then
        match h.req.op with
        | .read => s.answers .wrongKind [opCode h.req.op]
        | .write => s.answers .done h.req.data
      else if part = 0x00 then s.answers .done (holdRecord k s.hold.slots[k] h)
      else s.answers .invalid []
  | _ => s.answers .invalid []

/-- A decision carried out: the slot's hold has ended, and its freeing is reported (R72). -/
def State.decided (before after : State) : Answer :=
  { result := .done, payload := [], after := after.reportFreeing before }

/-- The data bytes that the layout of hdata and hdone allows (R189). -/
def maxDecisionData : Nat := Config.maxPayload - 2

/-- hdata's checks and effect (R74). -/
def hdataBody (payload : List Byte) (s : State) : Answer :=
  match payload with
  | slot :: use :: data =>
    if maxDecisionData < data.length then s.answers .invalid []
    else s.withDefer slot use fun k h =>
      if h.req.op = .write then s.answers .wrongKind [opCode h.req.op]
      else if data.length ≠ h.req.len.toNat then s.answers .badLength [h.req.len]
      else s.decided (s.endHold k h .ok data .answered)
  | _ => s.answers .invalid []

/-- hdone's checks and effect (R75). -/
def hdoneBody (payload : List Byte) (s : State) : Answer :=
  match payload with
  | slot :: use :: data =>
    if maxDecisionData < data.length then s.answers .invalid []
    else s.withDefer slot use fun k h =>
      if h.req.op = .read then s.answers .wrongKind [opCode h.req.op]
      else if data ≠ [] then s.answers .badLength [h.req.len]
      else s.decided (s.endHold k h .ok [] .answered)
  | _ => s.answers .invalid []

/-- The counts an hfwd gives for its replacements of a write's mask and data are the request's length (R71, R76). -/
def FwdParts.fits (p : FwdParts) (n : Nat) : Bool :=
  (match p.mask with | none => true | some m => m.length = n) &&
  (match p.data with | none => true | some d => d.length = n)

/-- The issue queue entry of an hfwd (R77): each replacement changes its own field only. -/
def FwdParts.entry (p : FwdParts) (h : Hold) : IssueEntry :=
  { tag := h.req.tag
    op := h.req.op
    addr := match p.addr with | none => h.decision.downstream | some a => BitVec.ofNat 40 a
    len := h.req.len
    mask := match p.mask with | none => h.req.mask | some m => some m
    data := p.data.getD h.req.data }

/-- hfwd's checks and effect (R76, R77). -/
def hfwdBody (payload : List Byte) (s : State) : Answer :=
  match payload with
  | slot :: use :: sel :: rest =>
    match if Config.maxPayload < payload.length then none else fwdParts sel rest with
    | none => s.answers .invalid []
    | some p =>
      s.withDefer slot use fun k h =>
        if h.req.op = .write && !p.fits h.req.len.toNat then s.answers .badLength [h.req.len]
        else if h.req.op = .read && (p.mask.isSome || p.data.isSome) then s.answers .invalid []
        else if (match p.addr with | none => false | some a => !inOneBlock a h.req.len.toNat) then s.answers .invalid []
        else s.decided (s.forwardSlot k h (p.entry h) .forwarded)
  | _ => s.answers .invalid []

/-- hrefuse's checks and effect (R78). -/
def hrefuseBody (payload : List Byte) (s : State) : Answer :=
  match payload with
  | [slot, use, st] =>
    s.withDefer slot use fun k h =>
      if st = HostStatus.refused.byte then s.decided (s.endHold k h .refused [] .refused)
      else if st = HostStatus.fault.byte then s.decided (s.endHold k h .fault [] .refused)
      else s.answers .invalid []
  | _ => s.answers .invalid []

/-- hrenew's checks and effect (R42, R79). -/
def hrenewBody (payload : List Byte) (s : State) : Answer :=
  match payload with
  | [slot, use] =>
    s.withDefer slot use fun k h =>
      if Config.maxRenewals ≤ h.renewals then
        s.answers .limit (le 2 (h.deadline.getD 0) ++ [BitVec.ofNat 8 h.renewals])
      else
        let n := s.hold.lengthOf h.decision
        { result := .done
          payload := le 2 n ++ [BitVec.ofNat 8 (h.renewals + 1)]
          after := s.putHold k { h with deadline := some n, renewals := h.renewals + 1 } }
  | _ => s.answers .invalid []

/-- TSET (R40). -/
def execTset (seq : Byte) (payload : List Byte) (s : State) : Host.Outcome State Fault Refusal :=
  running s fun s => s.takeFrame (frameLength payload) fun s => s.immediately .tset seq (tsetBody payload)

/-- HREAD (R73). -/
def execHread (seq : Byte) (payload : List Byte) (s : State) : Host.Outcome State Fault Refusal :=
  running s fun s => s.takeFrame (frameLength payload) fun s => s.immediately .hread seq (hreadBody payload)

/-- HDATA (R74). -/
def execHdata (seq : Byte) (payload : List Byte) (s : State) : Host.Outcome State Fault Refusal :=
  running s fun s => s.takeFrame (frameLength payload) fun s => s.immediately .hdata seq (hdataBody payload)

/-- HDONE (R75). -/
def execHdone (seq : Byte) (payload : List Byte) (s : State) : Host.Outcome State Fault Refusal :=
  running s fun s => s.takeFrame (frameLength payload) fun s => s.immediately .hdone seq (hdoneBody payload)

/-- HFWD (R76, R77). -/
def execHfwd (seq : Byte) (payload : List Byte) (s : State) : Host.Outcome State Fault Refusal :=
  running s fun s => s.takeFrame (frameLength payload) fun s => s.immediately .hfwd seq (hfwdBody payload)

/-- HREFUSE (R78). -/
def execHrefuse (seq : Byte) (payload : List Byte) (s : State) : Host.Outcome State Fault Refusal :=
  running s fun s => s.takeFrame (frameLength payload) fun s => s.immediately .hrefuse seq (hrefuseBody payload)

/-- HRENEW (R79). -/
def execHrenew (seq : Byte) (payload : List Byte) (s : State) : Host.Outcome State Fault Refusal :=
  running s fun s => s.takeFrame (frameLength payload) fun s => s.immediately .hrenew seq (hrenewBody payload)

end Sys2Proof.Machine
end

