-- ==== Sys2Proof/Machine/Windows.lean ====
section
/-! DEFINITION. The window commands and the commit's completion (spec/01). A `take` function is what the port does with the
well-formed frame; UNEXECUTED_FRAME's meaning shares it. -/

namespace Sys2Proof.Machine

/-- A window record refers to segment g (R17, R119). -/
def WindowRecord.refersTo (r : WindowRecord) (g : Fin 16) : Bool :=
  r.enabled && r.usesServe && (r.segment.map fun x => x.segment) = some g

/-- A window that uses SERVE names an EMPTY segment (R17, R18, R25). -/
def ImageStore.namesEmpty (m : ImageStore) (r : WindowRecord) : Bool :=
  r.usesServe && match r.segment with
    | none => true
    | some g => m.segments[g.segment].live.isNone

/-- wset's checks and effect (R18). -/
def wsetBody (payload : List Byte) (s : State) : Answer :=
  match payload with
  | [] => s.answers .invalid []
  | i :: rest =>
    match indexOf 24 i, WindowRecord.decode rest with
    | some w, some r =>
      if r.enabled && s.image.namesEmpty r then s.answers .invalid []
      else
        { result := .done, payload := []
          after := s.setWindows { s.windows with staged := s.windows.staged.set w r } }
    | _, _ => s.answers .invalid []

/-- wclear's check and effect (R19). -/
def wclearBody (payload : List Byte) (s : State) : Answer :=
  match payload with
  | [i] =>
    match indexOf 24 i with
    | some w =>
      { result := .done, payload := []
        after := s.setWindows
          { s.windows with staged := s.windows.staged.set w { s.windows.staged[w] with enabled := false } } }
    | none => s.answers .invalid []
  | _ => s.answers .invalid []

/-- wdefault's check and effect (R20). -/
def wdefaultBody (payload : List Byte) (s : State) : Answer :=
  match payload with
  | [r, w] =>
    match DefaultPolicy.ofReadCode r, DefaultPolicy.ofCode w with
    | some rp, some wp =>
      { result := .done, payload := []
        after := s.setWindows { s.windows with stagedDefault := { readPolicy := rp, writePolicy := wp } } }
    | _, _ => s.answers .invalid []
  | _ => s.answers .invalid []

/-- wread's answer (R21, R191). -/
def wreadBody (payload : List Byte) (s : State) : Answer :=
  match payload with
  | [t, i] =>
    let head := [t, i, s.windows.generation]
    if t = 0x00 then
      if i = 0xFF then s.answers .done (head ++ s.windows.stagedDefault.encode)
      else match indexOf 24 i with
        | some w => s.answers .done (head ++ s.windows.staged[w].encode)
        | none => s.answers .invalid []
    else if t = 0x01 then
      if i = 0xFF then s.answers .done (head ++ s.windows.activeDefault.encode)
      else match indexOf 24 i with
        | some w =>
          s.answers .done
            (head ++ s.windows.active[w].encode ++ le 2 s.windows.tripRemaining[w] ++
              [if s.windows.tripped[w] then 0x01 else 0x00])
        | none => s.answers .invalid []
    else s.answers .invalid []
  | _ => s.answers .invalid []

/-- wstats' answer (R22). -/
def wstatsBody (payload : List Byte) (s : State) : Answer :=
  match payload with
  | [i, z] =>
    match indexOf 24 i with
    | some w =>
      if z = 0 then
        s.answers .done (le 4 s.windows.readsMatched[w].toNat ++ le 4 s.windows.writesMatched[w].toNat)
      else s.answers .invalid []
    | none => s.answers .invalid []
  | _ => s.answers .invalid []

/-- wzero's check and effect (R23). -/
def wzeroBody (payload : List Byte) (s : State) : Answer :=
  match payload with
  | [i] =>
    if i = 0xFF then
      { result := .done, payload := []
        after := s.setWindows
          { s.windows with
            readsMatched := Vector.replicate 24 0
            writesMatched := Vector.replicate 24 0 } }
    else match indexOf 24 i with
      | some w =>
        { result := .done, payload := []
          after := s.setWindows
            { s.windows with
              readsMatched := s.windows.readsMatched.set w 0
              writesMatched := s.windows.writesMatched.set w 0 } }
      | none => s.answers .invalid []
  | _ => s.answers .invalid []

/-- Two windows share a byte (R25). -/
def WindowRecord.overlaps (a b : WindowRecord) : Bool :=
  a.base.toNat < b.base.toNat + b.size && b.base.toNat < a.base.toNat + a.size

/-- The staged window at an index fails one of commit's checks (R25). -/
def State.failsCommit (s : State) (i : Fin 24) : Bool :=
  let r := s.windows.staged[i]
  r.enabled &&
    (!r.rangeOk ||
     ((List.finRange 24).any fun j => j ≠ i && s.windows.staged[j].enabled && r.overlaps s.windows.staged[j]) ||
     s.image.namesEmpty r || !r.remapOk)

/-- The lowest failing index of the staged table (R25). -/
def State.lowestFailing (s : State) : Option (Fin 24) :=
  (List.finRange 24).find? fun i => s.failsCommit i

/-- The window table after a commit that passes (R26). -/
def WindowTable.committed (t : WindowTable) : WindowTable :=
  { t with
    active := t.staged
    activeDefault := t.stagedDefault
    tripRemaining := tableMap (fun _ r => (r.trip.map fun f => f.count).getD 0) t.staged
    tripped := Vector.replicate 24 false
    generation := t.generation + 1 }

/-- commit taken: the port becomes BUSY with it (R24, R177). -/
def takeCommit (seq : Byte) (payload : List Byte) (s : State) : State :=
  if payload = [] then s.setPort { s.port with phase := .busy (.commit seq) }
  else s.makeReady (commandCode .commit) seq .invalid []

/-- The completion of commit, where a commit executes (R25, R26, log 6). -/
def completeCommit (s : State) : State :=
  match s.port.phase with
  | .busy (.commit seq) =>
    match s.lowestFailing with
    | some i => s.makeReady (commandCode .commit) seq .invalid [indexByte i]
    | none =>
      (s.setWindows s.windows.committed).makeReady (commandCode .commit) seq .done [s.windows.committed.generation]
  | _ => s

/-- WSET (R18). -/
def execWset (seq : Byte) (payload : List Byte) (s : State) : Host.Outcome State Fault Refusal :=
  running s fun s => s.takeFrame (frameLength payload) fun s => s.immediately .wset seq (wsetBody payload)

/-- WCLEAR (R19). -/
def execWclear (seq : Byte) (payload : List Byte) (s : State) : Host.Outcome State Fault Refusal :=
  running s fun s => s.takeFrame (frameLength payload) fun s => s.immediately .wclear seq (wclearBody payload)

/-- WDEFAULT (R20). -/
def execWdefault (seq : Byte) (payload : List Byte) (s : State) : Host.Outcome State Fault Refusal :=
  running s fun s => s.takeFrame (frameLength payload) fun s => s.immediately .wdefault seq (wdefaultBody payload)

/-- WREAD (R21). -/
def execWread (seq : Byte) (payload : List Byte) (s : State) : Host.Outcome State Fault Refusal :=
  running s fun s => s.takeFrame (frameLength payload) fun s => s.immediately .wread seq (wreadBody payload)

/-- WSTATS (R22). -/
def execWstats (seq : Byte) (payload : List Byte) (s : State) : Host.Outcome State Fault Refusal :=
  running s fun s => s.takeFrame (frameLength payload) fun s => s.immediately .wstats seq (wstatsBody payload)

/-- WZERO (R23). -/
def execWzero (seq : Byte) (payload : List Byte) (s : State) : Host.Outcome State Fault Refusal :=
  running s fun s => s.takeFrame (frameLength payload) fun s => s.immediately .wzero seq (wzeroBody payload)

/-- COMMIT (R24). -/
def execCommit (seq : Byte) (payload : List Byte) (s : State) : Host.Outcome State Fault Refusal :=
  running s fun s => s.takeFrame (frameLength payload) fun s => takeCommit seq payload s

/-- COMMIT_COMPLETION (R25, R26). -/
def execCommitCompletion (s : State) : Host.Outcome State Fault Refusal :=
  running s completeCommit

end Sys2Proof.Machine
end

