-- ==== Sys2Proof/Machine/Images.lean ====
section
/-! DEFINITION. The image store's commands and the completion of scheck (spec/06). -/

namespace Sys2Proof.Machine

/-- A segment's geometry replaced, its wait list kept. -/
def ImageStore.setLive (m : ImageStore) (g : Fin 16) (l : Option Live) : ImageStore :=
  { m with segments := m.segments.set g { m.segments[g] with live := l } }

/-- A base and length that a segment may have (R108, R111). -/
def rangeFits (base length : Nat) : Bool :=
  base % 8 = 0 && base ≤ 16376 && length % 8 = 0 && 8 ≤ length && length ≤ Config.storeSize &&
  base + length ≤ Config.storeSize

/-- A segment that is not EMPTY covers a position of the range (R110, R111). -/
def Segment.covers (x : Segment) (base length : Nat) : Bool :=
  match x.live with
  | none => false
  | some l => l.base < base + length && base < l.base + l.length

/-- The payload of GEOMETRY (R190). -/
def geometryShown (g : Fin 16) (x : Segment) : List Byte :=
  match x.live with
  | none => indexByte g :: le 4 0
  | some l => indexByte g :: (le 2 l.base ++ le 2 l.length)

/-- sload's checks and effect (R111, R112). -/
def sloadBody (payload : List Byte) (s : State) : Answer :=
  match payload with
  | [a, b0, b1, n0, n1] =>
    match indexOf 16 a with
    | none => s.answers .invalid []
    | some g =>
      let base := fromLE [b0, b1]
      let length := fromLE [n0, n1]
      let begun : Answer :=
        { result := .done, payload := []
          after := s.setImage (s.image.setLive g
            (some { state := .loading, base := base, length := length, cursor := 0 })) }
      if !rangeFits base length then s.answers .invalid []
      else
        match s.image.segments[g].live with
        | some l =>
          if l.state = .loading then s.answers .wrongState [l.state.code]
          else if l.base = base ∧ l.length = length then begun
          else s.answers .geometry (geometryShown g s.image.segments[g])
        | none =>
          match lowest (fun x => x.covers base length) s.image.segments with
          | some j => s.answers .geometry (geometryShown j s.image.segments[j])
          | none => begun
  | _ => s.answers .invalid []

/-- sdata's checks and effect (R113). -/
def sdataBody (payload : List Byte) (s : State) : Answer :=
  match payload with
  | a :: o0 :: o1 :: data =>
    if data = [] ∨ 128 < data.length then s.answers .invalid []
    else
      match indexOf 16 a with
      | none => s.answers .invalid []
      | some g =>
        let offset := fromLE [o0, o1]
        if 16383 < offset then s.answers .invalid []
        else
          match s.image.segments[g].live with
          | none => s.answers .wrongState [s.image.segments[g].stateCode]
          | some l =>
            if l.state ≠ .loading then s.answers .wrongState [s.image.segments[g].stateCode]
            else if offset ≠ l.cursor then s.answers .sequence (le 2 l.cursor)
            else if l.length < offset + data.length then s.answers .badLength (le 2 l.cursor)
            else
              { result := .done
                payload := le 2 (l.cursor + data.length)
                after := s.setImage
                  { s.image.setLive g (some { l with cursor := l.cursor + data.length }) with
                    bytes := writeBytes s.image.bytes (l.base + offset) data } }
  | _ => s.answers .invalid []

/-- scheck taken: refused at once, or the port becomes BUSY with it (R115, R177). -/
def takeScheck (seq : Byte) (payload : List Byte) (s : State) : State :=
  let ends (r : Result) (p : List Byte) := s.makeReady (commandCode .scheck) seq r p
  match payload with
  | [a, c0, c1, c2, c3] =>
    match indexOf 16 a with
    | none => ends .invalid []
    | some g =>
      match s.image.segments[g].live with
      | none => ends .wrongState [s.image.segments[g].stateCode]
      | some l =>
        if l.state ≠ .loading then ends .wrongState [s.image.segments[g].stateCode]
        else if l.cursor ≠ l.length then ends .incomplete (le 2 l.cursor)
        else
          s.setPort
            { s.port with phase := .busy (.scheck seq g (BitVec.ofNat 32 (fromLE [c0, c1, c2, c3]))) }
  | _ => ends .invalid []

/-- The CRC of a segment's bytes (R114). -/
def ImageStore.crcOf (m : ImageStore) (l : Live) : Word32 :=
  crc32 (readBytes m.bytes l.base l.length)

/-- A segment's new state after scheck, with its IMAGE_FAULT where the CRC differs (R116). -/
def State.judge (s : State) (g : Fin 16) (l : Live) (crc : Word32) : State :=
  if s.image.crcOf l = crc then s.setImage (s.image.setLive g (some { l with state := .ready }))
  else (s.setImage (s.image.setLive g (some { l with state := .failed }))).post (.imageFault g .crc)

/-- The completion of scheck, where an scheck executes (R116, R126, log 6). -/
def completeScheck (s : State) : State :=
  match s.port.phase with
  | .busy (.scheck seq g crc) =>
    match s.image.segments[g].live with
    | none => s
    | some l =>
      (((s.judge g l crc).workThrough g).reportFreeing s).makeReady (commandCode .scheck) seq .done
        ((if s.image.crcOf l = crc then LiveState.ready.code else LiveState.failed.code) ::
          (le 4 (s.image.crcOf l).toNat ++ [BitVec.ofNat 8 s.image.segments[g].waiting.length]))
  | _ => s

/-- sabort's checks and effect (R117, R118). -/
def sabortBody (payload : List Byte) (s : State) : Answer :=
  match payload with
  | [a] =>
    match indexOf 16 a with
    | none => s.answers .invalid []
    | some g =>
      match s.image.segments[g].live with
      | none => s.answers .wrongState [s.image.segments[g].stateCode]
      | some l =>
        if l.state ≠ .loading then s.answers .wrongState [s.image.segments[g].stateCode]
        else
          let failed := (s.setImage (s.image.setLive g (some { l with state := .failed }))).post (.imageFault g .aborted)
          { result := .done
            payload := [BitVec.ofNat 8 s.image.segments[g].waiting.length]
            after := (failed.workThrough g).reportFreeing s }
  | _ => s.answers .invalid []

/-- The lowest index at which a window of either table refers to a segment, with the table code: STAGED where both do (R119,
R190). -/
def WindowTable.firstReferring (t : WindowTable) (g : Fin 16) : Option (Byte × Fin 24) :=
  match (List.finRange 24).find? fun i => t.staged[i].refersTo g || t.active[i].refersTo g with
  | none => none
  | some i => some (if t.staged[i].refersTo g then 0x00 else 0x01, i)

/-- sfree's checks and effect (R119). -/
def sfreeBody (payload : List Byte) (s : State) : Answer :=
  match payload with
  | [a] =>
    match indexOf 16 a with
    | none => s.answers .invalid []
    | some g =>
      match s.windows.firstReferring g with
      | some (t, i) => s.answers .inUse [t, indexByte i]
      | none =>
        match s.image.segments[g].live with
        | none => s.answers .done [0x00]
        | some _ =>
          let waiting := s.image.segments[g].waiting
          let empty := s.setImage (s.image.setLive g none)
          let told := if waiting = [] then empty else empty.post (.imageFault g .freed)
          { result := .done
            payload := [BitVec.ofNat 8 waiting.length]
            after := (told.workThrough g).reportFreeing s }
  | _ => s.answers .invalid []

/-- sread's checks and answer (R120). -/
def sreadBody (payload : List Byte) (s : State) : Answer :=
  match payload with
  | [a, o0, o1, n] =>
    match indexOf 16 a with
    | none => s.answers .invalid []
    | some g =>
      let offset := fromLE [o0, o1]
      if 16383 < offset ∨ n = 0 ∨ 128 < n.toNat then s.answers .invalid []
      else
        match s.image.segments[g].live with
        | none => s.answers .wrongState [s.image.segments[g].stateCode]
        | some l =>
          if l.length < offset + n.toNat then s.answers .badLength (le 2 l.length)
          else s.answers .done (readBytes s.image.bytes (l.base + offset) n.toNat)
  | _ => s.answers .invalid []

/-- The segment record (R194). -/
def State.segmentRecord (s : State) (g : Fin 16) : List Byte :=
  let x := s.image.segments[g]
  [indexByte g, x.stateCode] ++
  (match x.live with
   | none => List.replicate 6 0
   | some l => le 2 l.base ++ le 2 l.length ++ le 2 l.cursor) ++
  BitVec.ofNat 8 x.waiting.length :: x.waiting.flatMap fun k => [indexByte k, s.hold.slots[k].use]

/-- sinfo's check and answer (R121). -/
def sinfoBody (payload : List Byte) (s : State) : Answer :=
  match payload with
  | [a] =>
    match indexOf 16 a with
    | none => s.answers .invalid []
    | some g => s.answers .done (s.segmentRecord g)
  | _ => s.answers .invalid []

/-- SLOAD (R111, R112). -/
def execSload (seq : Byte) (payload : List Byte) (s : State) : Host.Outcome State Fault Refusal :=
  running s fun s => s.takeFrame (frameLength payload) fun s => s.immediately .sload seq (sloadBody payload)

/-- SDATA (R113). -/
def execSdata (seq : Byte) (payload : List Byte) (s : State) : Host.Outcome State Fault Refusal :=
  running s fun s => s.takeFrame (frameLength payload) fun s => s.immediately .sdata seq (sdataBody payload)

/-- SCHECK (R115). -/
def execScheck (seq : Byte) (payload : List Byte) (s : State) : Host.Outcome State Fault Refusal :=
  running s fun s => s.takeFrame (frameLength payload) fun s => takeScheck seq payload s

/-- SCHECK_COMPLETION (R116). -/
def execScheckCompletion (s : State) : Host.Outcome State Fault Refusal :=
  running s completeScheck

/-- SABORT (R117, R118). -/
def execSabort (seq : Byte) (payload : List Byte) (s : State) : Host.Outcome State Fault Refusal :=
  running s fun s => s.takeFrame (frameLength payload) fun s => s.immediately .sabort seq (sabortBody payload)

/-- SFREE (R119). -/
def execSfree (seq : Byte) (payload : List Byte) (s : State) : Host.Outcome State Fault Refusal :=
  running s fun s => s.takeFrame (frameLength payload) fun s => s.immediately .sfree seq (sfreeBody payload)

/-- SREAD (R120). -/
def execSread (seq : Byte) (payload : List Byte) (s : State) : Host.Outcome State Fault Refusal :=
  running s fun s => s.takeFrame (frameLength payload) fun s => s.immediately .sread seq (sreadBody payload)

/-- SINFO (R121). -/
def execSinfo (seq : Byte) (payload : List Byte) (s : State) : Host.Outcome State Fault Refusal :=
  running s fun s => s.takeFrame (frameLength payload) fun s => s.immediately .sinfo seq (sinfoBody payload)

end Sys2Proof.Machine
end

