-- ==== Sys2Proof/Machine/Links.lean ====
section
/-! DEFINITION. The events of the two links and the running out of a deadline (spec/02, spec/07, spec/08). -/

namespace Sys2Proof.Machine

/-- An offer on the host link: evaluated at once, unless the link is STALLED, when it is the withheld request's continued
presentation (R135, R147, log 8). -/
def offer (r : HostRequest) (s : State) : State :=
  match s.host.stalled with
  | some _ => s
  | none => s.evaluate false r

/-- The request as it goes to the fabric (R157). -/
def IssueEntry.issued (e : IssueEntry) (m : Fin 16) : MemRequest :=
  { tag := m, op := e.op, addr := e.addr, len := e.len, mask := e.mask, data := e.data }

/-- The fabric accepts the offer, where one is presented (R157, log 7). -/
def grantOffer (s : State) : State :=
  match s.issue.offer with
  | none => s
  | some (e, m) =>
    (s.setIssue
      { queue := s.issue.queue.drop 1
        forward := s.issue.forward.set m (.busy e.tag e.op e.len e.addr)
        sent := s.issue.sent ++ [e.issued m] }).moveTag e.tag (.forwarded m)

/-- The data of a memory response that is well-formed and OK for a request; none for one taken as FAULT (R160, R195). -/
def okData (m : MemResponse) (o : Op) (n : Byte) : Option (List Byte) :=
  if m.status = HostStatus.ok.code ∧ m.data.length = (match o with | .read => n.toNat | .write => 0) then some m.data else none

/-- A forward table entry FREE again (R161, R163). -/
def State.freeMemTag (s : State) (m : Fin 16) : State :=
  s.setIssue { s.issue with forward := s.issue.forward.set m .free }

/-- A memory response for a BUSY tag returned to its host tag (R161). -/
def State.returnResponse (s : State) (m : Fin 16) (t : Fin 32) (a : Addr) (out : Option (List Byte)) : State :=
  let told := match out with
    | some data => s.respond t .ok data
    | none => (s.post (.memoryFault m (.hostTag t a))).respond t .fault []
  (((told.freeMemTag m).setTag t none).advance t s.host.tags[t]).reportFreeing s

/-- A memory response, by the state of its tag's entry (R160 to R164). -/
def memoryAnswer (r : MemResponse) (s : State) : State :=
  match s.issue.forward[r.tag] with
  | .free => s.post (.memoryFault r.tag .unexpected)
  | .orphan o n a =>
    match okData r o n with
    | some _ => s.freeMemTag r.tag
    | none => (s.freeMemTag r.tag).post (.memoryFault r.tag (.orphan a))
  | .busy t o n a => s.returnResponse r.tag t a (okData r o n)

/-- A hold ended by its deadline, under its expiry action (R43 to R46). The EXPIRY notice comes after the withdrawal of the
hold's own notice (R92) and before what its chain's cascade posts (log 20). -/
def State.expire (s : State) (k : Fin 16) (h : Hold) : State :=
  let detail := Detail.expiry k s.hold.slots[k].use h.decision.window h.req.addr h.decision.expiryAction
  let s := s.setImage (s.image.leaveLists k)
  match h.decision.expiryAction with
  | .expire => ((s.answerSlot k h .expired [] .expired).post detail).advance h.req.tag s.host.tags[h.req.tag]
  | .forward => (s.forwardSlot k h (issueEntry h.req h.decision.downstream) .expired).post detail

/-- The deadline of a slot runs out: its remaining time has passed, and the hold expires. A slot with no running deadline has no
expiry (R34, R43, log 3, log 4). On a STALLED link the EXPIRY notice comes before the notices of the withheld request's fresh
evaluation, which is the model's choice (DESIGN CHOICE, log 23). -/
def runOut (k : Fin 16) (s : State) : State :=
  match s.hold.slots[k].hold with
  | none => s
  | some h =>
    match h.deadline with
    | none => s
    | some d =>
      let s := s.setHold (s.hold.elapse d)
      (s.expire k h).reportFreeing s

/-- A forward table entry at a host link reset (R167). -/
def Forward.orphaned : Forward → Forward
  | .busy _ o n a => .orphan o n a
  | f => f

/-- Whether a forward table entry is BUSY (R182). -/
def Forward.isBusy : Forward → Bool
  | .busy .. => true
  | _ => false

/-- Whether a forward table entry is ORPHAN (R182). -/
def Forward.isOrphan : Forward → Bool
  | .orphan .. => true
  | _ => false

/-- Every HELD slot freed with an outcome, in slot order, with the withdrawals that go with it (R51, R104). -/
def State.freeAll (s : State) (o : LastOutcome) : State :=
  (List.finRange 16).foldl (fun s k => s.freeSlot k o) s

/-- The host link reset, in every block that holds traffic (R51, R66, R104, R131, R150, R151, R167). -/
def resetLink (s : State) : State :=
  let holds := s.hold.heldCount
  let orphans := countWhere Forward.isBusy s.issue.forward
  let s := s.freeAll .reset
  let s := s.setHost { s.host with tags := Vector.replicate 32 none, stalled := none }
  let s := s.setChains (Vector.replicate 24 [])
  let s := s.setImage { s.image with segments := tableMap (fun _ g => { g with waiting := [] }) s.image.segments }
  let s := s.setIssue { s.issue with queue := [], forward := tableMap (fun _ f => f.orphaned) s.issue.forward }
  s.post (.linkReset holds orphans)

/-- HOST_OFFER (R135, R138). -/
def execHostOffer (r : HostRequest) (s : State) : Host.Outcome State Fault Refusal :=
  running s (offer r)

/-- GRANT (R157). -/
def execGrant (s : State) : Host.Outcome State Fault Refusal :=
  running s grantOffer

/-- MEMORY_RESPONSE (R160). -/
def execMemoryResponse (m : MemResponse) (s : State) : Host.Outcome State Fault Refusal :=
  running s (memoryAnswer m)

/-- EXPIRY (R43). -/
def execExpiry (slot : Fin 16) (s : State) : Host.Outcome State Fault Refusal :=
  running s (runOut slot)

/-- HOST_LINK_RESET (R150). -/
def execHostLinkReset (s : State) : Host.Outcome State Fault Refusal :=
  running s resetLink

end Sys2Proof.Machine
end

