-- ==== Sys2Proof/Machine/Notices.lean ====
section
/-! DEFINITION. Fetching and acknowledging notices (spec/05). -/

namespace Sys2Proof.Machine

/-- The hold a HOLD notice names, given a new notice state, where that hold is still current (R95, R98). -/
def State.markHold (s : State) (d : Detail) (n : NoticeState) : State :=
  match d with
  | .hold k u _ _ _ _ =>
    match s.hold.slots[k].hold with
    | some h => if s.hold.slots[k].use = u then s.putHold k { h with notice := n } else s
    | none => s
  | _ => s

/-- nfetch's answer and effect (R95). -/
def nfetchBody (payload : List Byte) (s : State) : Answer :=
  if payload ≠ [] then s.answers .invalid []
  else
    match s.notices.entries with
    | [] => s.answers .empty (le 2 s.notices.counter.toNat)
    | n :: _ =>
      let shown := n.encode ++ [BitVec.ofNat 8 s.notices.entries.length]
      if s.notices.presented then s.answers .done shown
      else
        { result := .done
          payload := shown
          after := (s.setNotices { s.notices with presented := true }).markHold n.detail .presented }

/-- The payload of MISMATCH: the head's number and whether it is presented, or the counter of an empty queue (R97, R190). -/
def NoticeQueue.shownHead (q : NoticeQueue) : List Byte :=
  match q.entries with
  | [] => le 2 q.counter.toNat ++ [0x00]
  | n :: _ => le 2 n.seq.toNat ++ [if q.presented then 0x02 else 0x01]

/-- nack's check and effect (R97, R98). -/
def nackBody (payload : List Byte) (s : State) : Answer :=
  match payload with
  | [a, b] =>
    match s.notices.entries with
    | n :: rest =>
      if s.notices.presented && fromLE [a, b] = n.seq.toNat then
        { result := .done
          payload := [BitVec.ofNat 8 rest.length]
          after := (s.setNotices s.notices.removeHead).markHold n.detail .none }
      else s.answers .mismatch s.notices.shownHead
    | [] => s.answers .mismatch s.notices.shownHead
  | _ => s.answers .invalid []

/-- NFETCH (R95). -/
def execNfetch (seq : Byte) (payload : List Byte) (s : State) : Host.Outcome State Fault Refusal :=
  running s fun s => s.takeFrame (frameLength payload) fun s => s.immediately .nfetch seq (nfetchBody payload)

/-- NACK (R97). -/
def execNack (seq : Byte) (payload : List Byte) (s : State) : Host.Outcome State Fault Refusal :=
  running s fun s => s.takeFrame (frameLength payload) fun s => s.immediately .nack seq (nackBody payload)

end Sys2Proof.Machine
end

