-- ==== Sys2Proof/Machine/Port.lean ====
section
/-! DEFINITION. The service port's own commands and frames, clearall, and RESETn (spec/09). -/

namespace Sys2Proof.Machine

/-- The status record (R182, R194). -/
def State.statusRecord (s : State) : List Byte :=
  [s.windows.generation] ++
  packFlags (s.windows.active.toList.map fun r => r.enabled) ++
  [BitVec.ofNat 8 (s.hold.heldFor .defer), BitVec.ofNat 8 (s.hold.heldFor .imageWait),
   BitVec.ofNat 8 (s.hold.heldFor .order), BitVec.ofNat 8 s.issue.queue.length,
   BitVec.ofNat 8 (countWhere Forward.isBusy s.issue.forward),
   BitVec.ofNat 8 (countWhere Forward.isOrphan s.issue.forward),
   BitVec.ofNat 8 s.notices.entries.length] ++
  le 2 s.notices.counter.toNat ++
  [if s.host.stalled.isSome then 0x01 else 0x00]

/-- status' answer (R182). -/
def statusBody (payload : List Byte) (s : State) : Answer :=
  if payload = [] then s.answers .done s.statusRecord else s.answers .invalid []

/-- clearall taken: the port becomes BUSY with it (R183). -/
def takeClearall (seq : Byte) (payload : List Byte) (s : State) : State :=
  if payload = [] then s.setPort { s.port with phase := .busy (.clearall seq) }
  else s.makeReady (commandCode .clearall) seq .invalid []

/-- The slots that hold the waiting members of the chain of a slot's request, in chain order; the slot alone where its request
is in no chain (R52, R67). -/
def State.chainSlots (s : State) (k : Fin 16) (h : Hold) : List (Fin 16) :=
  match s.host.tags[h.req.tag] with
  | some { member := true, window := some w, .. } =>
    s.chains[w].filterMap fun t => (s.slotOf t).map fun x => x.1
  | _ => [k]

/-- The HELD slots in the order a clearall completion answers them: by slot number, a chain's members together in chain order at
the place of the lowest-numbered slot among them (R52). -/
def State.clearOrder (s : State) : List (Fin 16) :=
  (List.finRange 16).flatMap fun k =>
    match s.hold.slots[k].hold with
    | none => []
    | some h => if (s.chainSlots k h).all fun j => k ≤ j then s.chainSlots k h else []

/-- One held request refused by a clearall completion (R52). The queue is emptied as a whole in the same completion, so no
notice is withdrawn by itself (R105, log 13). -/
def State.refuseSlot (s : State) (k : Fin 16) : State :=
  match s.hold.slots[k].hold with
  | none => s
  | some h =>
    let s := (s.respond h.req.tag .refused []).setTag h.req.tag none
    s.setHold { s.hold with slots := s.hold.slots.set k (s.hold.slots[k].free .cleared) }

/-- The window table after clearall: as at power-on, but for the generation, which advances (R28). -/
def WindowTable.cleared (t : WindowTable) : WindowTable :=
  { State.reset.windows with generation := t.generation + 1 }

/-- Every HELD slot refused, in that order (R52). A slot that no group names is answered last; there is none where chains, tags
and slots agree (R137). -/
def State.refuseAll (s : State) : State :=
  (s.clearOrder ++ List.finRange 16).foldl State.refuseSlot s

/-- What every block does at a clearall completion (R28, R52, R67, R105, R132, R168). -/
def State.clearBlocks (s : State) : State :=
  let s := s.refuseAll
  let s := s.setWindows s.windows.cleared
  let s := s.setHold { s.hold with timeouts := Config.defaultTimeouts }
  let s := s.setChains (Vector.replicate 24 [])
  let s := s.setHost
    { s.host with tags := tableMap (fun _ e => e.map fun x => { x with member := false }) s.host.tags }
  let s := s.setImage State.reset.image
  s.setNotices s.notices.clear

/-- The completion of clearall, where a clearall executes (R184, log 6). -/
def completeClearall (s : State) : State :=
  match s.port.phase with
  | .busy (.clearall seq) =>
    (s.clearBlocks.reportFreeing s).makeReady (commandCode .clearall) seq .done [s.windows.cleared.generation]
  | _ => s

/-- A poll frame of `rest.length + 1` bytes (R178): the status byte, the held response where there is one, and its release. -/
def takePoll (rest : List Byte) (s : State) : State :=
  let n := rest.length + 1
  match s.port.phase with
  | .idle => s.shiftOut (misoBytes n [0x00, Config.statusIdle])
  | .busy _ => s.shiftOut (misoBytes n [0x00, Config.statusBusy])
  | .ready r =>
    let t := s.shiftOut (misoBytes n (0x00 :: Config.statusReady :: r.frame))
    t.setPort { t.port with phase := .idle }

/-- A well-formed frame with a known code taken as its command (R176). -/
def takeCommand (c : Command) (seq : Byte) (payload : List Byte) (s : State) : State :=
  match c with
  | .wset => s.immediately .wset seq (wsetBody payload)
  | .wclear => s.immediately .wclear seq (wclearBody payload)
  | .wdefault => s.immediately .wdefault seq (wdefaultBody payload)
  | .wread => s.immediately .wread seq (wreadBody payload)
  | .commit => takeCommit seq payload s
  | .wstats => s.immediately .wstats seq (wstatsBody payload)
  | .wzero => s.immediately .wzero seq (wzeroBody payload)
  | .tset => s.immediately .tset seq (tsetBody payload)
  | .hread => s.immediately .hread seq (hreadBody payload)
  | .hdata => s.immediately .hdata seq (hdataBody payload)
  | .hdone => s.immediately .hdone seq (hdoneBody payload)
  | .hfwd => s.immediately .hfwd seq (hfwdBody payload)
  | .hrefuse => s.immediately .hrefuse seq (hrefuseBody payload)
  | .hrenew => s.immediately .hrenew seq (hrenewBody payload)
  | .nfetch => s.immediately .nfetch seq (nfetchBody payload)
  | .nack => s.immediately .nack seq (nackBody payload)
  | .sload => s.immediately .sload seq (sloadBody payload)
  | .sdata => s.immediately .sdata seq (sdataBody payload)
  | .scheck => takeScheck seq payload s
  | .sabort => s.immediately .sabort seq (sabortBody payload)
  | .sfree => s.immediately .sfree seq (sfreeBody payload)
  | .sread => s.immediately .sread seq (sreadBody payload)
  | .sinfo => s.immediately .sinfo seq (sinfoBody payload)
  | .status => s.immediately .status seq (statusBody payload)
  | .clearall => takeClearall seq payload s

/-- The payload of FRAME_ERROR: the cause and the complete bytes received, at most 65535 (R173, R190). -/
def frameErrorShown (c : FrameCause) (n : Nat) : List Byte :=
  c.code :: le 2 (min n 65535)

/-- A frame from its raw bytes, once the port may handle it: FRAME_ERROR, UNKNOWN, or the command it is (R173, R176, log 12). -/
def handleRaw (bytes : List Byte) (cut : Bool) (s : State) : State :=
  let code := bytes.getD 0 0
  let seq := bytes.getD 1 0
  match frameFault bytes cut with
  | some c => s.makeReady code seq .frameError (frameErrorShown c bytes.length)
  | none =>
    match commandOfCode code with
    | none => s.makeReady code seq .unknown []
    | some c => takeCommand c seq ((bytes.drop 3).dropLast) s

/-- A low period of CSn from its raw bytes: with no complete byte it is ignored (R169), a poll frame is taken by its first byte
(R171), and any other frame is a command frame (R173 to R176). -/
def takeRaw (bytes : List Byte) (cut : Bool) (s : State) : State :=
  match bytes with
  | [] => s
  | b :: rest => if b = Config.pollCode then takePoll rest s else s.takeFrame bytes.length (handleRaw bytes cut)

/-- The power-on state, with the RESETn pin at a level; what the wires have carried and what waits stay (R185, log 9, log 10,
log 18). -/
def State.powerOn (s : State) (level : PinLevel) : State :=
  { State.reset with
    host := { State.reset.host with sent := s.host.sent }
    issue := { State.reset.issue with sent := s.issue.sent }
    port := { State.reset.port with miso := s.port.miso }
    resetn := level
    pending := s.pending }

/-- RESETn falls, or rises (R185, log 9). -/
def movePin (level : PinLevel) (s : State) : State :=
  match level, s.resetn with
  | .low, _ => s.powerOn .low
  | .high, .low => s.powerOn .high
  | .high, .high => s

/-- RESETN (R185). -/
def execResetn (level : PinLevel) (s : State) : Host.Outcome State Fault Refusal :=
  .next (movePin level s)

/-- STATUS (R182). -/
def execStatus (seq : Byte) (payload : List Byte) (s : State) : Host.Outcome State Fault Refusal :=
  running s fun s => s.takeFrame (frameLength payload) fun s => s.immediately .status seq (statusBody payload)

/-- CLEARALL (R183). -/
def execClearall (seq : Byte) (payload : List Byte) (s : State) : Host.Outcome State Fault Refusal :=
  running s fun s => s.takeFrame (frameLength payload) fun s => takeClearall seq payload s

/-- CLEARALL_COMPLETION (R184). -/
def execClearallCompletion (s : State) : Host.Outcome State Fault Refusal :=
  running s completeClearall

/-- POLL (R178). -/
def execPoll (rest : List Byte) (s : State) : Host.Outcome State Fault Refusal :=
  running s (takePoll rest)

/-- UNEXECUTED_FRAME (R173). -/
def execUnexecutedFrame (bytes : List Byte) (cut : Bool) (s : State) : Host.Outcome State Fault Refusal :=
  running s (takeRaw bytes cut)

/-- SHORT_FRAME: ignored, whatever made it short (R169, R186). -/
def execShortFrame (_why : ShortCause) (s : State) : Host.Outcome State Fault Refusal :=
  .next s

end Sys2Proof.Machine
end

