-- ==== Sys2Proof/Machine/Dispatch.lean ====
section
/-! DEFINITION. The meaning of every command, one arm each. -/

namespace Sys2Proof.Machine

def exec (i : Instr) (s : State) : Host.Outcome State Fault Refusal :=
  match i with
  | .hostOffer r => Sys2Proof.Machine.execHostOffer r s
  | .grant => Sys2Proof.Machine.execGrant s
  | .memoryResponse m => Sys2Proof.Machine.execMemoryResponse m s
  | .expiry slot => Sys2Proof.Machine.execExpiry slot s
  | .hostLinkReset => Sys2Proof.Machine.execHostLinkReset s
  | .resetn level => Sys2Proof.Machine.execResetn level s
  | .wset seq payload => Sys2Proof.Machine.execWset seq payload s
  | .wclear seq payload => Sys2Proof.Machine.execWclear seq payload s
  | .wdefault seq payload => Sys2Proof.Machine.execWdefault seq payload s
  | .wread seq payload => Sys2Proof.Machine.execWread seq payload s
  | .wstats seq payload => Sys2Proof.Machine.execWstats seq payload s
  | .wzero seq payload => Sys2Proof.Machine.execWzero seq payload s
  | .commit seq payload => Sys2Proof.Machine.execCommit seq payload s
  | .commitCompletion => Sys2Proof.Machine.execCommitCompletion s
  | .tset seq payload => Sys2Proof.Machine.execTset seq payload s
  | .hread seq payload => Sys2Proof.Machine.execHread seq payload s
  | .hdata seq payload => Sys2Proof.Machine.execHdata seq payload s
  | .hdone seq payload => Sys2Proof.Machine.execHdone seq payload s
  | .hfwd seq payload => Sys2Proof.Machine.execHfwd seq payload s
  | .hrefuse seq payload => Sys2Proof.Machine.execHrefuse seq payload s
  | .hrenew seq payload => Sys2Proof.Machine.execHrenew seq payload s
  | .nfetch seq payload => Sys2Proof.Machine.execNfetch seq payload s
  | .nack seq payload => Sys2Proof.Machine.execNack seq payload s
  | .sload seq payload => Sys2Proof.Machine.execSload seq payload s
  | .sdata seq payload => Sys2Proof.Machine.execSdata seq payload s
  | .scheck seq payload => Sys2Proof.Machine.execScheck seq payload s
  | .scheckCompletion => Sys2Proof.Machine.execScheckCompletion s
  | .sabort seq payload => Sys2Proof.Machine.execSabort seq payload s
  | .sfree seq payload => Sys2Proof.Machine.execSfree seq payload s
  | .sread seq payload => Sys2Proof.Machine.execSread seq payload s
  | .sinfo seq payload => Sys2Proof.Machine.execSinfo seq payload s
  | .status seq payload => Sys2Proof.Machine.execStatus seq payload s
  | .clearall seq payload => Sys2Proof.Machine.execClearall seq payload s
  | .clearallCompletion => Sys2Proof.Machine.execClearallCompletion s
  | .poll rest => Sys2Proof.Machine.execPoll rest s
  | .unexecutedFrame bytes cut => Sys2Proof.Machine.execUnexecutedFrame bytes cut s
  | .shortFrame why => Sys2Proof.Machine.execShortFrame why s

end Sys2Proof.Machine
end

