-- ==== Sys2Proof/Machine/Step.lean ====
section
/-! DEFINITION. One step: the command at the front of the queue, or one unit of time where none waits. -/

namespace Sys2Proof.Machine

/-- The command at the front of the queue is executed with the queue's rest. On an empty queue the part idles, and one unit of
10 µs passes for the deadlines that run; RESETn low leaves none (log 2). -/
def step (s : State) : Host.Outcome State Fault Refusal :=
  match s.pending with
  | [] => .next (s.setHold (s.hold.elapse 1))
  | c :: rest => exec c (s.setPending rest)

/-- The state with the command that a word spells at the front of its queue; unchanged where the word spells none (log 17). -/
def State.withFetchWord (s : State) (nbits w : Nat) : State :=
  match decodeTableWord nbits w with
  | none => s
  | some c => s.setPending (c :: s.pending)

end Sys2Proof.Machine
end

