-- ==== Sys2Proof/Safety.lean ====
section
/-! DEFINITION. What a lawful state of the part is, block by block and between blocks: the laws the manual states of every
state, in the terms the statements use. -/

namespace Sys2Proof.Machine

/-! ### Notice queue (R86, R89, R91, R101) -/

/-- The entries carry consecutive numbers, the last one less than the counter (R89). -/
abbrev NoticeQueue.Numbered (q : NoticeQueue) : Prop :=
  ∀ i : Fin q.entries.length, q.entries[i].seq = q.counter - BitVec.ofNat 16 (q.entries.length - i)

/-- Counts lie in 1 to 255, and a HOLD entry's is 1 (R86). -/
abbrev NoticeQueue.Counted (q : NoticeQueue) : Prop :=
  ∀ n ∈ q.entries, 1 ≤ n.count ∧ n.count ≤ 255 ∧ (n.detail.kind = .hold → n.count = 1)

/-- No two unpresented entries are of one event kind (R91). -/
abbrev NoticeQueue.Merged (q : NoticeQueue) : Prop :=
  ((q.unpresented.map fun n => n.detail.kind).filter fun k => k ≠ .hold).Nodup

/-- The laws of the notice queue by itself: numbering, counts, merging, ATTN exactly while not empty (R101), and a presented
mark only on a head (R94). -/
abbrev NoticeQueue.Lawful (q : NoticeQueue) : Prop :=
  q.Numbered ∧ q.Counted ∧ q.Merged ∧ (q.attn = !q.entries.isEmpty) ∧ (q.presented = true → q.entries ≠ [])

/-! ### Window table (R1, R17, R26) -/

/-- A record of the active table: a record of R1, where a trip may have left a segment that no policy field names any more
(R14). -/
abbrev WindowRecord.Sound (r : WindowRecord) : Prop :=
  r.rangeOk = true ∧ r.remapOk = true ∧ r.readPolicy ≠ .discard ∧ (r.usesServe = true → r.segment.isSome = true) ∧
  (∀ g ∈ r.segment, g.offset % 8 = 0 ∧ g.offset ≤ 16376) ∧
  (∀ f ∈ r.trip, 1 ≤ f.count ∧ f.count ≤ 65535 ∧ f.readFallback ≠ .discard)

/-- Staged records are records of R1, active ones sound, no two enabled active windows share a byte (R26), a trip remaining is
within 65535, and an index with trip remaining has a trip count (R3, R13). -/
abbrev WindowTable.Lawful (t : WindowTable) : Prop :=
  (∀ i : Fin 24, t.staged[i].valid = true) ∧
  (∀ i : Fin 24, t.active[i].Sound) ∧
  (∀ i j : Fin 24, i ≠ j → t.active[i].enabled = true → t.active[j].enabled = true →
    t.active[i].overlaps t.active[j] = false) ∧
  (∀ i : Fin 24, t.tripRemaining[i] ≤ 65535 ∧ (0 < t.tripRemaining[i] → t.active[i].trip.isSome = true)) ∧
  t.stagedDefault.readPolicy ≠ .discard ∧ t.activeDefault.readPolicy ≠ .discard

/-- Every enabled window of either table that uses SERVE names a segment that is not EMPTY (R17). -/
abbrev State.ServedSegmentsLive (s : State) : Prop :=
  ∀ i : Fin 24,
    (s.windows.staged[i].enabled = true → s.image.namesEmpty s.windows.staged[i] = false) ∧
    (s.windows.active[i].enabled = true → s.image.namesEmpty s.windows.active[i] = false)

/-! ### Image store (R107 to R110) -/

/-- Geometries are in range with their cursor inside, and no two segments that are not EMPTY share a byte (R108, R110). -/
abbrev ImageStore.Geometry (m : ImageStore) : Prop :=
  (∀ g : Fin 16, ∀ l ∈ m.segments[g].live, rangeFits l.base l.length = true ∧ l.cursor ≤ l.length) ∧
  (∀ g j : Fin 16, g ≠ j → ∀ l ∈ m.segments[g].live, m.segments[j].covers l.base l.length = false)

/-- The wait lists hold each HELD IMAGE_WAIT slot once, in the list of its decision's segment, and nothing else; a list is empty
unless its segment is LOADING (R36, R109). -/
abbrev State.WaitListsLawful (s : State) : Prop :=
  (∀ g : Fin 16, s.image.segments[g].waiting.Nodup) ∧
  (∀ g : Fin 16, s.image.segments[g].waiting ≠ [] → s.image.isLoading g = true) ∧
  (∀ g : Fin 16, ∀ k : Fin 16, k ∈ s.image.segments[g].waiting ↔
    ∃ h ∈ s.hold.slots[k].hold, h.reason = .imageWait ∧
      (match h.decision.ruling with | .serve j _ => j = g | _ => False))

/-! ### Hold table (R29, R37, R49) -/

/-- A deadline is present for DEFER and IMAGE_WAIT and absent for ORDER, renewals stay within 3, a hold of DEFER was decided DEFER,
and the request is well-formed (R29, R38, R42). The notice state has no law here, for a use number comes again (log 22); that of the
notices themselves is HoldNoticesLawful. -/
abbrev Hold.Lawful (h : Hold) : Prop :=
  (h.deadline.isSome = true ↔ h.reason ≠ .order) ∧ (∀ d ∈ h.deadline, d ≤ 65535) ∧ h.renewals ≤ 3 ∧
  (h.reason = .defer → h.decision.ruling = .defer) ∧
  malformed h.req = false

/-- Every hold is lawful, and the timeout table's entries lie in 1 to 65535 (R37). -/
abbrev HoldTable.Lawful (h : HoldTable) : Prop :=
  (∀ k : Fin 16, ∀ x ∈ h.slots[k].hold, x.Lawful) ∧ (∀ c : Fin 4, 1 ≤ h.timeouts[c] ∧ h.timeouts[c] ≤ 65535)

/-! ### HOLD notices and the holds they name (R49, R100) -/

/-- The slot and use that a HOLD notice names; none for an event. -/
def Notice.named (n : Notice) : Option (Fin 16 × Byte) :=
  match n.detail with
  | .hold k u _ _ _ _ => some (k, u)
  | _ => none

/-- Each unpresented HOLD notice names a slot HELD for DEFER under the use it names, and no two name one slot (R49, R100). -/
abbrev State.HoldNoticesLawful (s : State) : Prop :=
  ((s.notices.unpresented.filterMap Notice.named).map fun x => x.1).Nodup ∧
  ∀ x ∈ s.notices.unpresented.filterMap Notice.named,
    s.hold.slots[x.1].use = x.2 ∧ ∃ h ∈ s.hold.slots[x.1].hold, h.reason = .defer

/-! ### Host tags, issue queue and forward table (R137, R154, R159) -/

/-- A host tag is recorded in exactly the place its entry names, and that record names the tag (R31, R137, R159). -/
abbrev State.TagsLawful (s : State) : Prop :=
  ((s.issue.queue.map fun e => e.tag).Nodup) ∧
  (∀ t : Fin 32, (∃ e ∈ s.issue.queue, e.tag = t) ↔ ∃ x ∈ s.host.tags[t], x.place = .queued) ∧
  (∀ t : Fin 32, ∀ m : Fin 16,
    (∃ x ∈ s.host.tags[t], x.place = .forwarded m) ↔
      (match s.issue.forward[m] with | .busy u _ _ _ => u = t | _ => False)) ∧
  (∀ t : Fin 32, ∀ k : Fin 16,
    (∃ x ∈ s.host.tags[t], x.place = .held k) ↔ ∃ h ∈ s.hold.slots[k].hold, h.req.tag = t)

/-- A STALLED link withholds a well-formed request whose tag is FREE, and only while every slot is HELD (R146, R147, R182). -/
abbrev State.StallLawful (s : State) : Prop :=
  ∀ r ∈ s.host.stalled,
    malformed r = false ∧ s.host.tags[r.tag] = none ∧ ∀ k : Fin 16, s.hold.slots[k].hold.isSome = true

/-! ### Order chains (R54, R55) -/

/-- A chain holds each tag once; its tags are the busy ones marked as members whose window is its index; behind the head every
member is held for ORDER; no head is, and no slot that is not a member's (R54, R55). -/
abbrev State.ChainsLawful (s : State) : Prop :=
  (∀ w : Fin 24, s.chains[w].Nodup) ∧
  (∀ w : Fin 24, ∀ t : Fin 32, t ∈ s.chains[w] ↔ ∃ x ∈ s.host.tags[t], x.member = true ∧ x.window = some w) ∧
  (∀ w : Fin 24, ∀ t ∈ s.chains[w].drop 1, ∃ p ∈ s.slotOf t, p.2.reason = .order) ∧
  (∀ w : Fin 24, ∀ t ∈ s.chains[w].take 1, ∀ p ∈ s.slotOf t, p.2.reason ≠ .order) ∧
  (∀ k : Fin 16, ∀ h ∈ s.hold.slots[k].hold,
    (∀ x ∈ s.host.tags[h.req.tag], x.window = some h.decision.window) ∧
    (h.reason = .order → ∃ x ∈ s.host.tags[h.req.tag], x.member = true))

/-! ### Service port and RESETn (R170, R185) -/

/-- DROPPED is set only while BUSY, OVERWRITTEN only while a timed command executes, and a checked segment stays LOADING with its
load complete (R115, R170, R179). -/
abbrev State.PortLawful (s : State) : Prop :=
  match s.port.phase with
  | .idle => s.port.dropped = false ∧ s.port.overwritten = false
  | .ready _ => s.port.dropped = false ∧ s.port.overwritten = false
  | .busy (.scheck _ g _) => ∃ l ∈ s.image.segments[g].live, l.state = .loading ∧ l.cursor = l.length
  | .busy _ => True

/-- While RESETn is low, every block is in its power-on state (R185). -/
abbrev State.PinLawful (s : State) : Prop :=
  s.resetn = .low → s = s.powerOn .low

/-! ### Requests in flight together -/

/-- Where every request in flight is: tags, chains, wait lists and holds agree (R31, R36, R54, R55, R109, R137). -/
abbrev State.TrafficLawful (s : State) : Prop :=
  s.TagsLawful ∧ s.ChainsLawful ∧ s.WaitListsLawful ∧ s.hold.Lawful

end Sys2Proof.Machine

/-! ### Terms of the statements -/

namespace Sys2Proof.Claims

open Machine

/-- The part runs and the service port handles a command frame: RESETn is high and the port is IDLE or READY (R173, R185). -/
def Accepts (s : State) : Prop := s.resetn = .high ∧ ∀ c, s.port.phase ≠ .busy c

/-- Whether the port holds a response (R170). -/
def holdsResponse (p : ServicePort) : Bool :=
  match p.phase with
  | .ready _ => true
  | _ => false

/-- The port after a command frame of n bytes that is answered at once (R169, R174 to R176, R179): 0x00 shifted out for each
byte, the response held with both flags, a response discarded on the way showing as OVERWRITTEN. -/
def replied (p : ServicePort) (n : Nat) (code seq : Byte) (r : Result) (payload : List Byte) : ServicePort :=
  { phase := .ready
      { code := code, seq := seq, result := r, dropped := p.dropped, overwritten := p.overwritten || holdsResponse p,
        payload := payload }
    dropped := false
    overwritten := false
    miso := p.miso ++ [List.replicate n 0] }

/-- The port after a timed command's frame of n bytes is taken (R169, R175, R177). -/
def begun (p : ServicePort) (n : Nat) (c : Executing) : ServicePort :=
  { phase := .busy c
    dropped := p.dropped
    overwritten := p.overwritten || holdsResponse p
    miso := p.miso ++ [List.replicate n 0] }

/-- The port after the command in execution has ended (R177, R179). -/
def completed (p : ServicePort) (code seq : Byte) (r : Result) (payload : List Byte) : ServicePort :=
  { phase := .ready
      { code := code, seq := seq, result := r, dropped := p.dropped, overwritten := p.overwritten, payload := payload }
    dropped := false
    overwritten := false
    miso := p.miso }

/-- The current hold of a slot is h, of reason DEFER, under use u (R69, R70). -/
def Decides (s : State) (k : Fin 16) (u : Byte) (h : Hold) : Prop :=
  s.hold.slots[k].hold = some h ∧ s.hold.slots[k].use = u ∧ h.reason = .defer

/-- No request is withheld, and a tag is in no order chain: freeing its slot has no further effect (R35, R148). -/
def Plain (s : State) (t : Fin 32) : Prop :=
  s.host.stalled = none ∧ ∀ e ∈ s.host.tags[t], e.member = false

/-- The hold table with slot k freed (R30, R34). -/
def freed (h : HoldTable) (k : Fin 16) (o : LastOutcome) : HoldTable :=
  { h with slots := h.slots.set k { use := h.slots[k].use + 1, last := o, hold := none } }

/-- The host link after a response, the tag then FREE (R137, R145). -/
def responded (l : HostLink) (t : Fin 32) (st : HostStatus) (data : List Byte) : HostLink :=
  { l with tags := l.tags.set t none, sent := l.sent ++ [{ tag := t, status := st, data := data }] }

/-- The host link after a response of a request that was never busy (R145). -/
def answered (l : HostLink) (t : Fin 32) (st : HostStatus) (data : List Byte) : HostLink :=
  { l with sent := l.sent ++ [{ tag := t, status := st, data := data }] }

/-- The host link with a tag busy in a place (R136, R137). -/
def busyTag (l : HostLink) (t : Fin 32) (p : TagPlace) (w : Option (Fin 24)) (m : Bool) : HostLink :=
  { l with tags := l.tags.set t (some { place := p, window := w, member := m }) }

/-- The staged window i passes commit's checks (R25). -/
def passes (s : State) (i : Fin 24) : Prop :=
  s.windows.staged[i].enabled = true →
    s.windows.staged[i].rangeOk = true ∧ s.windows.staged[i].remapOk = true ∧
    s.image.namesEmpty s.windows.staged[i] = false ∧
    ∀ j : Fin 24, j ≠ i → s.windows.staged[j].enabled = true →
      ¬ ∃ a : Nat,
        s.windows.staged[i].base.toNat ≤ a ∧ a < s.windows.staged[i].base.toNat + s.windows.staged[i].size ∧
        s.windows.staged[j].base.toNat ≤ a ∧ a < s.windows.staged[j].base.toNat + s.windows.staged[j].size

/-- The state after slot k's hold h has been answered, with the port after it, where nothing follows from it (R34, R35, R72): its
HOLD notice is withdrawn if unpresented (R93). -/
def ended (s : State) (k : Fin 16) (h : Hold) (st : HostStatus) (data : List Byte) (o : LastOutcome) (p : ServicePort) : State :=
  { s with
    host := responded s.host h.req.tag st data
    hold := freed s.hold k o
    notices := s.notices.withdraw k
    port := p }

/-- The payload of an hfwd after its slot and use: the selector and the parts it selects (R192). -/
def fwdPayload (addr : Option Addr) (mask : Option (List Bool)) (data : Option (List Byte)) : List Byte :=
  packByte [addr.isSome, mask.isSome, data.isSome] ::
    ((match addr with | none => [] | some a => le 5 a.toNat) ++
     (match mask with | none => [] | some m => BitVec.ofNat 8 m.length :: packFlags m) ++
     data.getD [])

/-- The least and the greatest payload length that passes the layout check of a command (R189). -/
def layoutBytes : Command → Nat × Nat
  | .wset => (27, 27)
  | .wclear => (1, 1)
  | .wdefault => (2, 2)
  | .wread => (2, 2)
  | .commit => (0, 0)
  | .wstats => (2, 2)
  | .wzero => (1, 1)
  | .tset => (3, 3)
  | .hread => (3, 3)
  | .hdata => (2, 160)
  | .hdone => (2, 160)
  | .hfwd => (3, 160)
  | .hrefuse => (3, 3)
  | .hrenew => (2, 2)
  | .nfetch => (0, 0)
  | .nack => (2, 2)
  | .sload => (5, 5)
  | .sdata => (4, 131)
  | .scheck => (5, 5)
  | .sabort => (1, 1)
  | .sfree => (1, 1)
  | .sread => (4, 4)
  | .sinfo => (1, 1)
  | .status => (0, 0)
  | .clearall => (0, 0)

/-- The n bytes from an address lie in one 128-byte-aligned block (R76, R133). -/
def oneBlock (a : Addr) (n : Nat) : Prop := a.toNat % 128 + n ≤ 128

/-- The lowest-numbered FREE slot is k (R31). -/
def LowestFree (s : State) (k : Fin 16) : Prop :=
  s.hold.slots[k].hold = none ∧ ∀ j : Fin 16, j < k → s.hold.slots[j].hold ≠ none

/-- A request passes the tag clash, malformed request and straddle checks of an OPEN link, and matches m (R138 to R141). -/
def Offered (s : State) (r : HostRequest) (m : Option (Fin 24)) : Prop :=
  s.resetn = .high ∧ s.host.stalled = none ∧ s.host.tags[r.tag] = none ∧ malformed r = false ∧
  s.windows.matched r.addr = m ∧ s.windows.straddles m r.addr r.len.toNat = false

/-- The chain of window w with a tag at its tail where the window is ordered (R57, R58). -/
def joined (s : State) (w : Fin 24) (t : Fin 32) : Vector (List (Fin 32)) 24 :=
  if s.windows.active[w].ordered = true then s.chains.set w (s.chains[w] ++ [t]) else s.chains

/-- Tag t is at the head of the chain of window w, with the rest behind it (R54). -/
def Heads (s : State) (w : Fin 24) (t : Fin 32) (rest : List (Fin 32)) : Prop :=
  s.chains[w] = t :: rest ∧ ∃ p, s.host.tags[t] = some { place := p, window := some w, member := true }

/-- The state in which a tag is marked as no chain member: its answer then advances no chain (R60). -/
def outOfChain (s : State) (t : Fin 32) : State :=
  { s with
    host := { s.host with tags := s.host.tags.set t (s.host.tags[t].map fun e => { e with member := false }) } }

/-- The event rules on the request of a tag where that is held, or returns its memory response: what can send the response of a chain
head, beside the working through of a wait list (R55, R60). -/
def RulesOn (s : State) (t : Fin 32) : Instr → Prop
  | .hdata _ p | .hdone _ p | .hrefuse _ p =>
    ∃ k : Fin 16, p.head? = some (indexByte k) ∧ ∃ h ∈ s.hold.slots[k].hold, h.req.tag = t
  | .expiry k => ∃ h ∈ s.hold.slots[k].hold, h.req.tag = t
  | .memoryResponse m => ∃ o n a, s.issue.forward[m.tag] = .busy t o n a
  | _ => False

/-- A wait list worked through against a READY segment, from the bytes and notices as they stand: each member in list order, on the
bytes as the members before it left them; the bytes and notices after, and the responses (R122, R123, R126). A member is its slot, its
request and its image offset. -/
def servedInOrder (g : Fin 16) (l : Live) :
    List (Fin 16 × HostRequest × Nat) → List Host.Cell → NoticeQueue → List Host.Cell × NoticeQueue × List HostResponse
  | [], m, q => (m, q, [])
  | (k, r, x) :: rest, m, q =>
    if x + r.len.toNat ≤ l.length then
      let d := if r.op = .read then readBytes m (l.base + x) r.len.toNat else []
      let m' := if r.op = .write then writeEnabled m (l.base + x) r.data (writeFlags r) else m
      let out := servedInOrder g l rest m' (q.withdraw k)
      (out.1, out.2.1, { tag := r.tag, status := .ok, data := d } :: out.2.2)
    else
      let out := servedInOrder g l rest m ((q.post (.imageFault g .range)).withdraw k)
      (out.1, out.2.1, { tag := r.tag, status := .fault, data := [] } :: out.2.2)

/-- The chain of the request in a slot, none for a request in no chain (R54). -/
def chainOf (s : State) (k : Fin 16) : Option (Fin 24) :=
  (s.hold.slots[k].hold.bind fun h => s.host.tags[h.req.tag]).bind fun e => if e.member = true then e.window else none

/-- Where R52 places the answer of slot k at a clearall completion: at the lowest-numbered slot that a member of its chain holds, or
at its own number, and there at its place in the chain. -/
def answerPlace (s : State) (k : Fin 16) : Nat × Nat :=
  match s.hold.slots[k].hold, chainOf s k with
  | some h, some w =>
    ((((List.finRange 16).find? fun j => chainOf s j = some w).getD k).val, s.chains[w].idxOf h.req.tag)
  | _, _ => (k.val, 0)

/-- A slot held for a request, its use number and last outcome kept (R30, R31). -/
def heldSlot (h : HoldTable) (k : Fin 16) (x : Hold) : HoldTable :=
  { h with slots := h.slots.set k { h.slots[k] with hold := some x } }

end Sys2Proof.Claims
end

