-- ==== Sys2Proof/Certificates/Slice0/Obligations.lean ====
section
/-! DEFINITION. The statements about the part, block by block. A statement that gives the whole next state says also what stays as
it was. Every `exec … = .next …` here is a completion: its hypotheses are on the state and the operands alone. -/

open Sys2Proof Sys2Proof.Machine Sys2Proof.Claims

/-! ### The queue of commands -/

/-- One step is exec of the command at the front of the queue, on the state with the queue's rest (log 1). -/
def Obligations.StepRunsTheFrontCommand : Prop :=
  ∀ (c : Instr) (rest : List Instr) (s : State),
    step { s with pending := c :: rest } = exec c { s with pending := rest }

/-- With no command waiting, one unit of 10 µs passes: every running deadline counts down by one and stops at 0, and nothing else
changes. That a step of the idle part lasts one unit is the model's choice (log 2). -/
def Obligations.IdleStepPassesOneUnit : Prop :=
  ∀ s : State, s.pending = [] →
    ∃ t, step s = .next t ∧ t = { s with hold := t.hold } ∧ t.hold.timeouts = s.hold.timeouts ∧
      ∀ k : Fin 16, t.hold.slots[k] =
        { s.hold.slots[k] with
          hold := s.hold.slots[k].hold.map fun h => { h with deadline := h.deadline.map fun d => d - 1 } }

/-! ### Reset and RESETn (R185, R186) -/

/-- The values that the manual gives for the power-on state, block by block (R27, R50, R54, R103, R130, R153, R166, R170). -/
def Obligations.ResetValues : Prop :=
  let s := State.reset
  (∀ i : Fin 24,
    (∀ r ∈ [s.windows.staged[i], s.windows.active[i]],
      r.enabled = false ∧ r.base = 0 ∧ r.size = 64 ∧ r.readPolicy = .pass ∧ r.writePolicy = .pass ∧ r.remap = none ∧
      r.segment = none ∧ r.ordered = false ∧ r.timeoutClass = 0 ∧ r.expiryAction = .expire ∧ r.trip = none) ∧
    s.windows.tripRemaining[i] = 0 ∧ s.windows.tripped[i] = false ∧
    s.windows.readsMatched[i] = 0 ∧ s.windows.writesMatched[i] = 0 ∧ s.chains[i] = []) ∧
  (∀ d ∈ [s.windows.stagedDefault, s.windows.activeDefault], d.readPolicy = .pass ∧ d.writePolicy = .pass) ∧
  s.windows.generation = 0 ∧
  (∀ k : Fin 16,
    s.hold.slots[k].hold = none ∧ s.hold.slots[k].use = 0 ∧ s.hold.slots[k].last = .none ∧
    s.image.segments[k].live = none ∧ s.image.segments[k].waiting = [] ∧ s.issue.forward[k] = .free) ∧
  s.hold.timeouts[0] = 100 ∧ s.hold.timeouts[1] = 1000 ∧ s.hold.timeouts[2] = 10000 ∧ s.hold.timeouts[3] = 65535 ∧
  s.notices.entries = [] ∧ s.notices.presented = false ∧ s.notices.counter = 0 ∧ s.notices.attn = false ∧
  (∀ a : Nat, byteAt s.image.bytes a = 0) ∧
  (∀ t : Fin 32, s.host.tags[t] = none) ∧ s.host.stalled = none ∧ s.issue.queue = [] ∧
  s.port.phase = .idle ∧ s.port.dropped = false ∧ s.port.overwritten = false

/-- RESETn falling puts every block in its power-on state and holds it there; rising leaves it in that state. What the wires have
carried and what waits in the model's queue stay, which is the model's choice (log 9, log 10, log 18). -/
def Obligations.ResetnGivesPowerOnState : Prop :=
  (∀ s : State, ∃ t, exec (.resetn .low) s = .next t ∧ t.resetn = .low ∧
    t.windows = State.reset.windows ∧ t.hold = State.reset.hold ∧ t.chains = State.reset.chains ∧
    t.notices = State.reset.notices ∧ t.image = State.reset.image ∧
    t.host = { State.reset.host with sent := s.host.sent } ∧ t.issue = { State.reset.issue with sent := s.issue.sent } ∧
    t.port = { State.reset.port with miso := s.port.miso } ∧ t.pending = s.pending) ∧
  (∀ s : State, s.resetn = .low → s.PinLawful → exec (.resetn .high) s = .next { s with resetn := .high }) ∧
  ∀ s : State, s.resetn = .high → exec (.resetn .high) s = .next s

/-- While RESETn is low, no event other than its own has any effect (R185, R186). -/
def Obligations.NothingIsTakenWhileResetnIsLow : Prop :=
  ∀ (i : Instr) (s : State), s.resetn = .low → (∀ l, i ≠ .resetn l) → exec i s = .next s

/-! ### Frames (R169 to R180, R187 to R189) -/

/-- The manual's own values: CRC-8 0xF4 and CRC-32 0xCBF43926 over the characters 1 to 9 (R172, R114), and the wstats frame it writes
out byte by byte, which is that command. Two examples beside it: the same frame with its byte 3 one bit away executes nothing, and
the frame 7E 15 44 is a poll. No complete byte is no frame (R169, R171, R173, R189). -/
def Obligations.FramesAndCRCsOfTheManual : Prop :=
  (crc8 [0x31, 0x32, 0x33, 0x34, 0x35, 0x36, 0x37, 0x38, 0x39] = 0xF4 ∧
  crc32 [0x31, 0x32, 0x33, 0x34, 0x35, 0x36, 0x37, 0x38, 0x39] = 0xCBF43926) ∧
  decodeFrame [0x15, 0x44, 0x02, 0x04, 0x00, 0x9E] false = some (.wstats 0x44 [0x04, 0x00]) ∧
  decodeFrame [0x15, 0x44, 0x02, 0x05, 0x00, 0x9E] false =
    some (.unexecutedFrame [0x15, 0x44, 0x02, 0x05, 0x00, 0x9E] false) ∧
  decodeFrame [0x7E, 0x15, 0x44] true = some (.poll [0x15, 0x44]) ∧ decodeFrame [] true = none

/-- Every well-formed command that is a frame is read back from its bytes, with every sequence byte and every payload. -/
def Obligations.EncodedFramesDecode : Prop :=
  ∀ (i : Instr) (bytes : List Byte) (cut : Bool),
    i.wellFormed = true → encodeFrame i = some (bytes, cut) → decodeFrame bytes cut = some i

/-- Every low period of CSn with a complete byte is a command: a poll where it begins with 0x7E, whatever follows and whether or not
its last byte is complete (R171), and else a well-formed command whose bytes they are. No two well-formed commands have the same
bytes, and with no complete byte there is no command (R169, R173). -/
def Obligations.DecodedFramesEncode : Prop :=
  (∀ cut : Bool, decodeFrame [] cut = none) ∧
  (∀ (rest : List Byte) (cut : Bool), decodeFrame (0x7E :: rest) cut = some (.poll rest)) ∧
  (∀ (bytes : List Byte) (cut : Bool), bytes ≠ [] → bytes.getD 0 0 ≠ 0x7E →
    ∃ i, decodeFrame bytes cut = some i ∧ i.wellFormed = true ∧ encodeFrame i = some (bytes, cut)) ∧
  ∀ (i j : Instr) (bytes : List Byte) (cut : Bool), i.wellFormed = true → j.wellFormed = true →
    encodeFrame i = some (bytes, cut) → encodeFrame j = some (bytes, cut) → i = j

/-- A command frame taken while the port is BUSY is dropped: DROPPED is set, nothing else but the 0x00 bytes on MISO, and the
command in execution goes on. Every command frame is meant, executable or not (R174). -/
def Obligations.BusyPortDropsCommandFrames : Prop :=
  ∀ (i : Instr) (bytes : List Byte) (cut : Bool) (c : Executing) (s : State),
    i.wellFormed = true → encodeFrame i = some (bytes, cut) → (∀ rest, i ≠ .poll rest) → s.resetn = .high →
    s.port.phase = .busy c →
    exec i s = .next
      { s with port := { s.port with dropped := true, miso := s.port.miso ++ [List.replicate bytes.length 0] } }

/-- A command frame taken while the port is READY loses the held response, sets OVERWRITTEN, and is then handled as from IDLE
(R175). -/
def Obligations.ReadyPortIsOverwritten : Prop :=
  ∀ (i : Instr) (bytes : List Byte) (cut : Bool) (r : Response) (s : State),
    i.wellFormed = true → encodeFrame i = some (bytes, cut) → (∀ rest, i ≠ .poll rest) → s.resetn = .high →
    s.port.phase = .ready r →
    exec i s = exec i { s with port := { s.port with phase := .idle, overwritten := true } }

/-- A command frame answered with a result other than DONE leaves every block outside the service port unchanged (R181). -/
def Obligations.RefusedCommandsChangeNoBlock : Prop :=
  ∀ (i : Instr) (bytes : List Byte) (cut : Bool) (s t : State) (r : Response),
    i.wellFormed = true → encodeFrame i = some (bytes, cut) → (∀ rest, i ≠ .poll rest) → Accepts s →
    exec i s = .next t → t.port.phase = .ready r → r.result ≠ .done → t = { s with port := t.port }

/-- A poll shifts out the status byte second; while READY it shifts out the held response from the third byte on and releases it,
and otherwise it changes nothing (R178, R179). The response frame is code, sequence byte, result, flags (bit 0 DROPPED, bit 1
OVERWRITTEN), payload length, payload and CRC-8 (R188). A low period of CSn with no complete byte, or one that RESETn cuts, is ignored
(R169, R186). -/
def Obligations.PollsReturnAndShortFramesAreIgnored : Prop :=
  (∀ (rest : List Byte) (s : State), s.resetn = .high →
    (s.port.phase = .idle →
      exec (.poll rest) s = .next
        { s with port := { s.port with miso := s.port.miso ++ [misoBytes (rest.length + 1) [0x00, 0x01]] } }) ∧
    (∀ c, s.port.phase = .busy c →
      exec (.poll rest) s = .next
        { s with port := { s.port with miso := s.port.miso ++ [misoBytes (rest.length + 1) [0x00, 0x02]] } }) ∧
    ∀ r, s.port.phase = .ready r →
      let body : List Byte :=
        [r.code, r.seq, r.result.code, (if r.dropped then 1 else 0) + (if r.overwritten then 2 else 0),
         BitVec.ofNat 8 r.payload.length] ++ r.payload
      exec (.poll rest) s = .next
        { s with port :=
          { s.port with
            phase := .idle
            miso := s.port.miso ++ [misoBytes (rest.length + 1) (0x00 :: 0x03 :: (body ++ [crc8 body]))] } }) ∧
  ∀ (why : ShortCause) (s : State), exec (.shortFrame why) s = .next s

/-- A command frame that fails a check of R173 is answered FRAME_ERROR with the first cause that fails and the count of complete
bytes; a well-formed one whose code names no command is answered UNKNOWN; neither reaches a block. -/
def Obligations.UnexecutedFramesAreAnswered : Prop :=
  ∀ (bytes : List Byte) (cut : Bool) (s : State),
    Accepts s → bytes ≠ [] → bytes.getD 0 0 ≠ 0x7E → bytes.length ≤ 65535 →
    let answer (r : Result) (p : List Byte) : Host.Outcome State Fault Refusal :=
      .next { s with port := replied s.port bytes.length (bytes.getD 0 0) (bytes.getD 1 0) r p }
    let error (cause : Byte) := answer .frameError [cause, BitVec.ofNat 8 bytes.length, BitVec.ofNat 8 (bytes.length / 256)]
    (3 ≤ bytes.length → 160 < (bytes.getD 2 0).toNat → exec (.unexecutedFrame bytes cut) s = error 0x01) ∧
    (bytes.length < 3 → exec (.unexecutedFrame bytes cut) s = error 0x02) ∧
    (3 ≤ bytes.length → (bytes.getD 2 0).toNat ≤ 160 → (cut = true ∨ bytes.length ≠ (bytes.getD 2 0).toNat + 4) →
      exec (.unexecutedFrame bytes cut) s = error 0x02) ∧
    (3 ≤ bytes.length → (bytes.getD 2 0).toNat ≤ 160 → cut = false → bytes.length = (bytes.getD 2 0).toNat + 4 →
      (bytes.getLastD 0 ≠ crc8 bytes.dropLast → exec (.unexecutedFrame bytes cut) s = error 0x03) ∧
      (bytes.getLastD 0 = crc8 bytes.dropLast → (∀ c, commandCode c ≠ bytes.getD 0 0) →
        exec (.unexecutedFrame bytes cut) s = answer .unknown []))

/-- A payload whose length is not one the table of R189 gives its command, or an hfwd payload that its selector does not lay out, is
answered INVALID before any other check and changes nothing (R176, R187, R189, R192). A payload above 160 bytes is in no frame; that
such a term is INVALID too is the model's choice (log 12). -/
def Obligations.PayloadsOfNoLayoutAreInvalid : Prop :=
  ∀ (seq : Byte) (p : List Byte) (s : State), Accepts s →
    let invalid (c : Command) :=
      exec (instrOf c seq p) s = .next { s with port := replied s.port (p.length + 4) (commandCode c) seq .invalid [] }
    (∀ c : Command, (p.length < (layoutBytes c).1 ∨ (layoutBytes c).2 < p.length) → invalid c) ∧
    ((∀ (slot use : Byte) (a : Option Addr) (m : Option (List Bool)) (d : Option (List Byte)),
        (∀ x ∈ m, x.length ≤ 255) → p ≠ slot :: use :: fwdPayload a m d) → invalid .hfwd)

/-! ### Window commands (R18 to R26) -/

/-- A wset whose payload is the 26-byte layout of a record of R1, enabled only where its segment is not EMPTY, stages that record
and nothing else; every other payload is answered INVALID (R18). The 26 bytes and the policy codes are written out: flags, the four
policies, timeout class, segment, offset, trip count, base, size in granules of 64 bytes and remap target, 0 where absent
(R187, R191). -/
def Obligations.WsetStagesRecordsOfR1Only : Prop :=
  (∀ (seq : Byte) (p : List Byte) (s : State), Accepts s →
    (∀ (w : Fin 24) (r : WindowRecord),
      p = indexByte w :: r.encode → r.valid = true → (r.enabled = true → s.image.namesEmpty r = false) →
      exec (.wset seq p) s = .next
        { s with
          windows := { s.windows with staged := s.windows.staged.set w r }
          port := replied s.port (p.length + 4) 0x10 seq .done [] }) ∧
    ((¬ ∃ (w : Fin 24) (r : WindowRecord),
        p = indexByte w :: r.encode ∧ r.valid = true ∧ (r.enabled = true → s.image.namesEmpty r = false)) →
      exec (.wset seq p) s = .next { s with port := replied s.port (p.length + 4) 0x10 seq .invalid [] })) ∧
  ∀ r : WindowRecord,
    let flag (b : Bool) (v : Byte) : Byte := if b then v else 0
    let code (q : Policy) : Byte :=
      match q with | .pass => 0x00 | .serve => 0x01 | .defer => 0x02 | .deny => 0x03 | .discard => 0x04
    r.encode =
      [flag r.enabled 1 + flag r.ordered 2 + flag (r.expiryAction = .forward) 4 + flag r.remap.isSome 8 +
          flag r.segment.isSome 16 + flag r.trip.isSome 32,
        code r.readPolicy, code r.writePolicy] ++
      (match r.trip with | none => [0, 0] | some f => [code f.readFallback, code f.writeFallback]) ++
      [BitVec.ofNat 8 r.timeoutClass.val] ++
      (match r.segment with | none => [0, 0, 0] | some g => BitVec.ofNat 8 g.segment.val :: le 2 g.offset) ++
      (match r.trip with | none => [0, 0] | some f => le 2 f.count) ++
      le 5 r.base.toNat ++ le 5 (r.size / 64) ++
      (match r.remap with | none => [0, 0, 0, 0, 0] | some t => le 5 t.toNat)

/-- wclear sets enabled to no in the staged record at its index; wdefault replaces the staged default record with the two policies
given; nothing else changes, and any other payload is INVALID (R19, R20). -/
def Obligations.StagedRecordsAreClearedAndDefaultsReplaced : Prop :=
  (∀ (seq : Byte) (p : List Byte) (s : State), Accepts s →
    (∀ w : Fin 24, p = [indexByte w] →
      exec (.wclear seq p) s = .next
        { s with
          windows :=
            { s.windows with staged := s.windows.staged.set w { s.windows.staged[w] with enabled := false } }
          port := replied s.port 5 0x11 seq .done [] }) ∧
    ((∀ w : Fin 24, p ≠ [indexByte w]) →
      exec (.wclear seq p) s = .next { s with port := replied s.port (p.length + 4) 0x11 seq .invalid [] })) ∧
  ∀ (seq : Byte) (p : List Byte) (s : State), Accepts s →
    (∀ rp wp : DefaultPolicy, rp ≠ .discard → p = [rp.code, wp.code] →
      exec (.wdefault seq p) s = .next
        { s with
          windows := { s.windows with stagedDefault := { readPolicy := rp, writePolicy := wp } }
          port := replied s.port 6 0x12 seq .done [] }) ∧
    ((∀ rp wp : DefaultPolicy, rp ≠ .discard → p ≠ [rp.code, wp.code]) →
      exec (.wdefault seq p) s = .next { s with port := replied s.port (p.length + 4) 0x12 seq .invalid [] })

/-- wread returns the record named, with the generation, and for an active window its trip remaining and tripped; it changes no
state; another table value or index is INVALID (R21, R191). A window record's 26 bytes are those that WsetStagesRecordsOfR1Only writes
out. -/
def Obligations.WreadReturnsRecords : Prop :=
  ∀ (seq : Byte) (s : State), Accepts s →
    let done (p d : List Byte) := exec (.wread seq p) s = .next { s with port := replied s.port 6 0x13 seq .done (p ++ d) }
    let g := s.windows.generation
    (∀ w : Fin 24, done [0x00, indexByte w] (g :: s.windows.staged[w].encode)) ∧
    done [0x00, 0xFF] [g, s.windows.stagedDefault.readPolicy.code, s.windows.stagedDefault.writePolicy.code] ∧
    (∀ w : Fin 24, done [0x01, indexByte w]
      (g :: (s.windows.active[w].encode ++
        [BitVec.ofNat 8 s.windows.tripRemaining[w], BitVec.ofNat 8 (s.windows.tripRemaining[w] / 256),
         if s.windows.tripped[w] then 0x01 else 0x00]))) ∧
    done [0x01, 0xFF] [g, s.windows.activeDefault.readPolicy.code, s.windows.activeDefault.writePolicy.code] ∧
    ∀ p : List Byte,
      (∀ t i : Byte, p = [t, i] → (t ≠ 0x00 ∧ t ≠ 0x01) ∨ (24 ≤ i.toNat ∧ i ≠ 0xFF)) →
      exec (.wread seq p) s = .next { s with port := replied s.port (p.length + 4) 0x13 seq .invalid [] }

/-- wstats returns the reads matched and the writes matched counters of its index and changes nothing (its second payload byte is
reserved); wzero sets both counters of its index to 0, or with ALL those of every index; any other payload is INVALID (R22, R23). -/
def Obligations.StatisticsAreReadAndZeroed : Prop :=
  (∀ (seq : Byte) (p : List Byte) (s : State), Accepts s →
    (∀ w : Fin 24, p = [indexByte w, 0x00] →
      exec (.wstats seq p) s = .next
        { s with
          port :=
            replied s.port 6 0x15 seq .done
              (le 4 s.windows.readsMatched[w].toNat ++ le 4 s.windows.writesMatched[w].toNat) }) ∧
    ((∀ w : Fin 24, p ≠ [indexByte w, 0x00]) →
      exec (.wstats seq p) s = .next { s with port := replied s.port (p.length + 4) 0x15 seq .invalid [] })) ∧
  ∀ (seq : Byte) (p : List Byte) (s : State), Accepts s →
    (∀ w : Fin 24, p = [indexByte w] →
      exec (.wzero seq p) s = .next
        { s with
          windows :=
            { s.windows with
              readsMatched := s.windows.readsMatched.set w 0
              writesMatched := s.windows.writesMatched.set w 0 }
          port := replied s.port 5 0x16 seq .done [] }) ∧
    (p = [0xFF] →
      exec (.wzero seq p) s = .next
        { s with
          windows :=
            { s.windows with readsMatched := Vector.replicate 24 0, writesMatched := Vector.replicate 24 0 }
          port := replied s.port 5 0x16 seq .done [] }) ∧
    ((∀ w : Fin 24, p ≠ [indexByte w]) → p ≠ [0xFF] →
      exec (.wzero seq p) s = .next { s with port := replied s.port (p.length + 4) 0x16 seq .invalid [] })

/-- commit and clearall have no parameters and no check when taken: each makes the port BUSY with it and changes nothing else; a
payload that is not empty is INVALID (R24, R177, R183, R189). -/
def Obligations.CommitAndClearallMakeThePortBusy : Prop :=
  ∀ (seq : Byte) (s : State), Accepts s →
    exec (.commit seq []) s = .next { s with port := begun s.port 4 (.commit seq) } ∧
    exec (.clearall seq []) s = .next { s with port := begun s.port 4 (.clearall seq) } ∧
    ∀ p : List Byte, p ≠ [] →
      exec (.commit seq p) s = .next { s with port := replied s.port (p.length + 4) 0x14 seq .invalid [] } ∧
      exec (.clearall seq p) s = .next { s with port := replied s.port (p.length + 4) 0x71 seq .invalid [] }

/-- A commit whose staged windows all pass copies the staged table and default record, arms every trip count, advances the
generation and answers DONE with it; the statistics, the chains and the holds keep their values. One with a failing staged window
answers INVALID with the lowest failing index and changes no block. Staged sizes are positive, as in every record of R1
(R25, R26). -/
def Obligations.CommitCopiesOrReportsTheLowestFailingIndex : Prop :=
  (∀ (seq : Byte) (s : State),
    s.resetn = .high → s.port.phase = .busy (.commit seq) → (∀ i : Fin 24, 0 < s.windows.staged[i].size) →
    (∀ i : Fin 24, passes s i) →
    exec .commitCompletion s = .next
      { s with
        windows :=
          { s.windows with
            active := s.windows.staged
            activeDefault := s.windows.stagedDefault
            tripRemaining := s.windows.staged.map fun r => match r.trip with | none => 0 | some t => t.count
            tripped := Vector.replicate 24 false
            generation := s.windows.generation + 1 }
        port := completed s.port 0x14 seq .done [s.windows.generation + 1] }) ∧
  ∀ (seq : Byte) (i : Fin 24) (s : State),
    s.resetn = .high → s.port.phase = .busy (.commit seq) → (∀ j : Fin 24, 0 < s.windows.staged[j].size) →
    ¬ passes s i → (∀ j : Fin 24, j < i → passes s j) →
    exec .commitCompletion s = .next { s with port := completed s.port 0x14 seq .invalid [indexByte i] }

/-- A completion with no command of its kind in execution has no effect: the core clock completes only what executes. That such an
event is taken without effect is the model's choice (log 6). -/
def Obligations.CompletionsNeedTheirCommand : Prop :=
  ∀ s : State,
    ((∀ q, s.port.phase ≠ .busy (.commit q)) → exec .commitCompletion s = .next s) ∧
    ((∀ q g c, s.port.phase ≠ .busy (.scheck q g c)) → exec .scheckCompletion s = .next s) ∧
    ((∀ q, s.port.phase ≠ .busy (.clearall q)) → exec .clearallCompletion s = .next s)

/-! ### Timeouts and decisions (R40 to R46, R68 to R79) -/

/-- tset sets the timeout table entry of its class to a value from 1 to 65535, and no running deadline; any other payload is
INVALID (R40). -/
def Obligations.TsetSetsTheTimeoutEntry : Prop :=
  ∀ (seq : Byte) (p : List Byte) (s : State), Accepts s →
    (∀ (c : Fin 4) (v : Nat), 1 ≤ v → v ≤ 65535 → p = indexByte c :: le 2 v →
      exec (.tset seq p) s = .next
        { s with
          hold := { s.hold with timeouts := s.hold.timeouts.set c v }
          port := replied s.port 7 0x20 seq .done [] }) ∧
    ((∀ (c : Fin 4) (v : Nat), 1 ≤ v → v ≤ 65535 → p ≠ indexByte c :: le 2 v) →
      exec (.tset seq p) s = .next { s with port := replied s.port (p.length + 4) 0x20 seq .invalid [] })

/-- A decision command that names no current hold is STALE, or LATE where it names the previous use, which ended by expiry; hread
is never LATE; both show the slot. A slot byte outside 0 to 15 is INVALID before that. A command other than hread that names the
current hold of a slot held for IMAGE_WAIT or ORDER is WRONG_STATE with the slot's reason. Nothing changes (R69, R70, R187). -/
def Obligations.OnlyCurrentDeferHoldsAreDecided : Prop :=
  (∀ (seq u : Byte) (s : State), Accepts s →
    (∀ k : Fin 16, (s.hold.slots[k].hold = none ∨ s.hold.slots[k].use ≠ u) →
      let x := s.hold.slots[k]
      let lateOrStale : Result := if u = x.use - 1 ∧ x.last = .expired then .late else .stale
      let shown : List Byte := [if x.hold.isSome then 0x01 else 0x00, x.use, x.last.code]
      (∀ part, exec (.hread seq [indexByte k, u, part]) s = .next
        { s with port := replied s.port 7 0x30 seq .stale shown }) ∧
      (∀ data, data.length ≤ 158 → exec (.hdata seq (indexByte k :: u :: data)) s = .next
        { s with port := replied s.port (data.length + 6) 0x31 seq lateOrStale shown }) ∧
      (∀ data, data.length ≤ 158 → exec (.hdone seq (indexByte k :: u :: data)) s = .next
        { s with port := replied s.port (data.length + 6) 0x32 seq lateOrStale shown }) ∧
      (∀ a m d, (∀ x ∈ m, x.length ≤ 255) → (fwdPayload a m d).length ≤ 158 →
        exec (.hfwd seq (indexByte k :: u :: fwdPayload a m d)) s = .next
          { s with port := replied s.port ((fwdPayload a m d).length + 6) 0x33 seq lateOrStale shown }) ∧
      (∀ st, exec (.hrefuse seq [indexByte k, u, st]) s = .next
        { s with port := replied s.port 7 0x34 seq lateOrStale shown }) ∧
      exec (.hrenew seq [indexByte k, u]) s = .next { s with port := replied s.port 6 0x35 seq lateOrStale shown }) ∧
    ∀ (slot : Byte) (rest : List Byte), 16 ≤ slot.toNat →
      let p := slot :: u :: rest
      let invalid (code : Byte) : Host.Outcome State Fault Refusal :=
        .next { s with port := replied s.port (p.length + 4) code seq .invalid [] }
      exec (.hread seq p) s = invalid 0x30 ∧ exec (.hdata seq p) s = invalid 0x31 ∧ exec (.hdone seq p) s = invalid 0x32 ∧
      exec (.hfwd seq p) s = invalid 0x33 ∧ exec (.hrefuse seq p) s = invalid 0x34 ∧ exec (.hrenew seq p) s = invalid 0x35) ∧
  ∀ (seq : Byte) (k : Fin 16) (h : Hold) (s : State), Accepts s → s.hold.slots[k].hold = some h → h.reason ≠ .defer →
    let u := s.hold.slots[k].use
    let wrong (code : Byte) (n : Nat) : Host.Outcome State Fault Refusal :=
      .next { s with port := replied s.port (n + 4) code seq .wrongState [if h.reason = .imageWait then 0x02 else 0x03] }
    (∀ data, data.length ≤ 158 → exec (.hdata seq (indexByte k :: u :: data)) s = wrong 0x31 (data.length + 2)) ∧
    (∀ data, data.length ≤ 158 → exec (.hdone seq (indexByte k :: u :: data)) s = wrong 0x32 (data.length + 2)) ∧
    (∀ a m d, (∀ x ∈ m, x.length ≤ 255) → (fwdPayload a m d).length ≤ 158 →
      exec (.hfwd seq (indexByte k :: u :: fwdPayload a m d)) s = wrong 0x33 ((fwdPayload a m d).length + 2)) ∧
    (∀ st, exec (.hrefuse seq [indexByte k, u, st]) s = wrong 0x34 3) ∧
    exec (.hrenew seq [indexByte k, u]) s = wrong 0x35 2

/-- hread returns the record of a current hold of any reason, or a held WRITE's data, and changes nothing; DATA of a READ is
WRONG_KIND, and another part is INVALID (R71, R73). The record's 48 bytes are written out, for a mask of at most 128 flags, as every
held request has (R192). -/
def Obligations.HreadReturnsTheHold : Prop :=
  ∀ (seq : Byte) (k : Fin 16) (h : Hold) (s : State), Accepts s → s.hold.slots[k].hold = some h →
    let reads (part : Byte) := exec (.hread seq [indexByte k, s.hold.slots[k].use, part]) s
    let answer (r : Result) (p : List Byte) : Host.Outcome State Fault Refusal :=
      .next { s with port := replied s.port 7 0x30 seq r p }
    let x := s.hold.slots[k]
    reads 0x00 = answer .done (holdRecord k x h) ∧
    ((∀ m ∈ h.req.mask, m.length ≤ 128) →
      reads 0x00 = answer .done
        ([indexByte k, x.use, h.reason.code, x.last.code, indexByte h.req.tag, if h.req.op = .read then 0x00 else 0x01] ++
          le 5 h.req.addr.toNat ++ [h.req.len, indexByte h.decision.window, h.decision.ruling.code] ++
          le 5 h.decision.downstream.toNat ++
          (match h.decision.ruling with
           | .serve g p => indexByte g :: le 5 (if p < 2 ^ 40 then p else 2 ^ 40 - 1)
           | _ => [0, 0, 0, 0, 0, 0]) ++
          [indexByte h.decision.timeoutClass, if h.decision.expiryAction = .expire then 0x00 else 0x01] ++
          (match h.deadline with | some d => le 2 d | none => [0, 0]) ++
          [BitVec.ofNat 8 h.renewals, h.notice.code,
           (if h.req.mask.isSome then 1 else 0) + (if h.deadline.isSome then 2 else 0) +
             (match h.decision.ruling with | .serve .. => 4 | _ => 0)] ++
          (List.range 16).map fun i => packByte (((h.req.mask.getD []).drop (8 * i)).take 8))) ∧
    (h.req.op = .write → reads 0x01 = answer .done h.req.data) ∧
    (h.req.op = .read → reads 0x01 = answer .wrongKind [0x00]) ∧
    ∀ part, part ≠ 0x00 → part ≠ 0x01 → reads part = answer .invalid []

/-- hdata answers a held READ with exactly its bytes, hdone a held WRITE, hrefuse either with REFUSED or FAULT: the response is sent,
the slot and the tag are FREE, and an unpresented HOLD notice is withdrawn. The wrong op is WRONG_KIND, a wrong count BAD_LENGTH, a
wrong status INVALID, and then nothing changes (R71, R72, R74, R75, R78). -/
def Obligations.DecisionsAnswerTheHost : Prop :=
  ∀ (seq u : Byte) (k : Fin 16) (h : Hold) (s : State), Accepts s → Decides s k u h → Plain s h.req.tag →
    let port (n : Nat) (code : Byte) := replied s.port n code seq .done []
    let refused (n : Nat) (code : Byte) (r : Result) (p : List Byte) : Host.Outcome State Fault Refusal :=
      .next { s with port := replied s.port n code seq r p }
    (∀ data : List Byte, data.length ≤ 158 →
      let n := data.length + 6
      (h.req.op = .read → data.length = h.req.len.toNat →
        exec (.hdata seq (indexByte k :: u :: data)) s = .next (ended s k h .ok data .answered (port n 0x31))) ∧
      (h.req.op = .read → data.length ≠ h.req.len.toNat →
        exec (.hdata seq (indexByte k :: u :: data)) s = refused n 0x31 .badLength [h.req.len]) ∧
      (h.req.op = .write → exec (.hdata seq (indexByte k :: u :: data)) s = refused n 0x31 .wrongKind [0x01]) ∧
      (h.req.op = .write → data = [] →
        exec (.hdone seq (indexByte k :: u :: data)) s = .next (ended s k h .ok [] .answered (port 6 0x32))) ∧
      (h.req.op = .write → data ≠ [] →
        exec (.hdone seq (indexByte k :: u :: data)) s = refused n 0x32 .badLength [h.req.len]) ∧
      (h.req.op = .read → exec (.hdone seq (indexByte k :: u :: data)) s = refused n 0x32 .wrongKind [0x00])) ∧
    exec (.hrefuse seq [indexByte k, u, 0x01]) s = .next (ended s k h .refused [] .refused (port 7 0x34)) ∧
    exec (.hrefuse seq [indexByte k, u, 0x03]) s = .next (ended s k h .fault [] .refused (port 7 0x34)) ∧
    ∀ st, st ≠ 0x01 → st ≠ 0x03 → exec (.hrefuse seq [indexByte k, u, st]) s = refused 7 0x34 .invalid []

/-- hfwd appends the held request to the issue queue with the replacements given, each in its own field only; the slot is FREE with
FORWARDED, the tag QUEUED, and no response is sent. Counts that differ from a WRITE's length are BAD_LENGTH; a READ's mask or data,
and an address whose bytes leave one block, are INVALID; then nothing changes (R76, R77). -/
def Obligations.HfwdQueuesTheRequest : Prop :=
  ∀ (seq u : Byte) (k : Fin 16) (h : Hold) (a : Option Addr) (m : Option (List Bool)) (d : Option (List Byte)) (s : State),
    Accepts s → Decides s k u h → s.host.stalled = none → (∀ x ∈ m, x.length ≤ 255) → (fwdPayload a m d).length ≤ 158 →
    let p := indexByte k :: u :: fwdPayload a m d
    let counts := (∀ x ∈ m, x.length = h.req.len.toNat) ∧ (∀ x ∈ d, x.length = h.req.len.toNat)
    let inBlock := ∀ x ∈ a, oneBlock x h.req.len.toNat
    let refused (r : Result) (q : List Byte) : Host.Outcome State Fault Refusal :=
      .next { s with port := replied s.port (p.length + 4) 0x33 seq r q }
    let queued : Host.Outcome State Fault Refusal := .next
      { s with
        issue :=
          { s.issue with
            queue := s.issue.queue ++
              [{ tag := h.req.tag
                 op := h.req.op
                 addr := a.getD h.decision.downstream
                 len := h.req.len
                 mask := if m.isSome then m else h.req.mask
                 data := d.getD h.req.data }] }
        hold := freed s.hold k .forwarded
        notices := s.notices.withdraw k
        host :=
          { s.host with
            tags := s.host.tags.set h.req.tag (s.host.tags[h.req.tag].map fun e => { e with place := .queued }) }
        port := replied s.port (p.length + 4) 0x33 seq .done [] }
    (h.req.op = .write → counts → inBlock → exec (.hfwd seq p) s = queued) ∧
    (h.req.op = .read → m = none → d = none → inBlock → exec (.hfwd seq p) s = queued) ∧
    (h.req.op = .write → ¬ counts → exec (.hfwd seq p) s = refused .badLength [h.req.len]) ∧
    (h.req.op = .write → counts → ¬ inBlock → exec (.hfwd seq p) s = refused .invalid []) ∧
    (h.req.op = .read → (m ≠ none ∨ d ≠ none ∨ ¬ inBlock) → exec (.hfwd seq p) s = refused .invalid [])

/-- hrenew restarts the deadline from the timeout entry of the decision's class as it stands, at most three times in one hold; a
fourth is LIMIT, and then nothing changes (R42, R79). -/
def Obligations.HrenewRestartsTheDeadline : Prop :=
  ∀ (seq u : Byte) (k : Fin 16) (h : Hold) (s : State), Accepts s → Decides s k u h →
    let n := s.hold.timeouts[h.decision.timeoutClass]
    (h.renewals < 3 →
      exec (.hrenew seq [indexByte k, u]) s = .next
        { s with
          hold := heldSlot s.hold k { h with deadline := some n, renewals := h.renewals + 1 }
          port := replied s.port 6 0x35 seq .done (le 2 n ++ [BitVec.ofNat 8 (h.renewals + 1)]) }) ∧
    (3 ≤ h.renewals →
      exec (.hrenew seq [indexByte k, u]) s = .next
        { s with
          port := replied s.port 6 0x35 seq .limit (le 2 (h.deadline.getD 0) ++ [BitVec.ofNat 8 h.renewals]) })

/-- Whatever sends the response of a chain's head (hdata, hdone, hrefuse, an expiry, its memory response), the event is what it is for a
request in no chain, followed by the cascade over the members behind it. The cascade ends with the chain empty, or takes the first
member left by its decision: PASS queues it, DEFER holds it in place with a deadline and a HOLD notice, SERVE of a LOADING segment puts
it on the wait list, and there the cascade stops; DENY, DISCARD and SERVE of a segment that is not LOADING answer it, and the cascade
goes on. Last, for the hdone of a WRITE head, the next state is written out (R35, R59 to R62, R161, R162). Heads answered from a wait
list are in ReadySegmentServesItsWaiter (R63), and events of a STALLED part in FreeingASlotEndsTheStall. That the EXPIRY notice of an
expired head comes before the notices of the cascade is the model's reading (log 20). -/
def Obligations.AnsweredHeadStartsTheNextMember : Prop :=
  (∀ (i : Instr) (w : Fin 24) (t : Fin 32) (rest : List (Fin 32)) (s t0 : State),
    s.host.stalled = none → Heads s w t rest → RulesOn s t i → exec i (outOfChain s t) = .next t0 → t0.host.tags[t] = none →
    exec i s = .next (State.cascade w rest t0)) ∧
  (∀ (w : Fin 24) (s : State), State.cascade w [] s = { s with chains := s.chains.set w [] }) ∧
  (∀ (w : Fin 24) (j : Fin 16) (g : Hold) (e : TagEntry) (rest : List (Fin 32)) (s : State),
    s.host.tags[g.req.tag] = some e → e.place = .held j → s.hold.slots[j].hold = some g →
    let t := g.req.tag
    let after := State.cascade w (t :: rest) s
    let stops := s.chains.set w (t :: rest)
    let n := s.hold.timeouts[g.decision.timeoutClass]
    let gone (q : NoticeQueue) (st : HostStatus) (d : List Byte) (o : LastOutcome) : State :=
      { s with hold := freed s.hold j o, notices := q.withdraw j, host := responded s.host t st d }
    (g.decision.ruling = .pass →
      after =
        { s with
          chains := stops
          issue := { s.issue with queue := s.issue.queue ++ [issueEntry g.req g.decision.downstream] }
          hold := freed s.hold j .passed
          notices := s.notices.withdraw j
          host := { s.host with tags := s.host.tags.set t (some { e with place := .queued }) } }) ∧
    (g.decision.ruling = .defer →
      after =
        { s with
          chains := stops
          hold := heldSlot s.hold j { g with reason := .defer, deadline := some n, renewals := 0, notice := .queued }
          notices := s.notices.append (.hold j s.hold.slots[j].use g.req.op g.decision.window g.req.addr g.req.len) }) ∧
    (g.decision.ruling = .deny → after = State.cascade w rest (gone s.notices .refused [] .refused)) ∧
    (g.decision.ruling = .discard → after = State.cascade w rest (gone s.notices .ok [] .answered)) ∧
    ∀ x p, g.decision.ruling = .serve x p →
      (s.image.isLoading x = true →
        after =
          { s with
            chains := stops
            hold := heldSlot s.hold j { g with reason := .imageWait, deadline := some n, renewals := 0, notice := .none }
            image := s.image.setWaiting x (s.image.segments[x].waiting ++ [j]) }) ∧
      ((s.image.segments[x].live = none ∨ ∃ l ∈ s.image.segments[x].live, l.state = .failed) →
        after = State.cascade w rest (gone (s.notices.post (.imageFault x .failed)) .fault [] .refused)) ∧
      ∀ l, s.image.segments[x].live = some l → l.state = .ready →
        (l.length < p + g.req.len.toNat →
          after = State.cascade w rest (gone (s.notices.post (.imageFault x .range)) .fault [] .refused)) ∧
        (p + g.req.len.toNat ≤ l.length → g.req.op = .read →
          after = State.cascade w rest
            (gone s.notices .ok (readBytes s.image.bytes (l.base + p) g.req.len.toNat) .served)) ∧
        (p + g.req.len.toNat ≤ l.length → g.req.op = .write →
          after = State.cascade w rest
            { gone s.notices .ok [] .served with
              image :=
                { s.image with bytes := writeEnabled s.image.bytes (l.base + p) g.req.data (writeFlags g.req) } })) ∧
  ∀ (seq u : Byte) (k j : Fin 16) (h g : Hold) (w : Fin 24) (rest : List (Fin 32)) (s : State),
    Accepts s → Decides s k u h → h.req.op = .write → s.host.stalled = none → j ≠ k → g.req.tag ≠ h.req.tag →
    s.chains[w] = h.req.tag :: g.req.tag :: rest →
    s.host.tags[h.req.tag] = some { place := .held k, window := some w, member := true } →
    s.host.tags[g.req.tag] = some { place := .held j, window := some w, member := true } →
    s.hold.slots[j].hold = some g → g.reason = .order →
    let b := ended s k h .ok [] .answered (replied s.port 6 0x32 seq .done [])
    let after := exec (.hdone seq [indexByte k, u]) s
    let n := b.hold.timeouts[g.decision.timeoutClass]
    (g.decision.ruling = .pass →
      after = .next
        { b with
          chains := s.chains.set w (g.req.tag :: rest)
          issue := { b.issue with queue := b.issue.queue ++ [issueEntry g.req g.decision.downstream] }
          hold := freed b.hold j .passed
          notices := b.notices.withdraw j
          host := busyTag b.host g.req.tag .queued (some w) true }) ∧
    (g.decision.ruling = .defer →
      after = .next
        { b with
          chains := s.chains.set w (g.req.tag :: rest)
          hold := heldSlot b.hold j { g with reason := .defer, deadline := some n, renewals := 0, notice := .queued }
          notices := b.notices.append
            (.hold j s.hold.slots[j].use g.req.op g.decision.window g.req.addr g.req.len) }) ∧
    (∀ x p, g.decision.ruling = .serve x p → s.image.isLoading x = true →
      after = .next
        { b with
          chains := s.chains.set w (g.req.tag :: rest)
          hold := heldSlot b.hold j { g with reason := .imageWait, deadline := some n, renewals := 0, notice := .none }
          image := s.image.setWaiting x (s.image.segments[x].waiting ++ [j]) }) ∧
    (rest = [] →
      (g.decision.ruling = .deny →
        after = .next
          { b with
            chains := s.chains.set w []
            hold := freed b.hold j .refused
            notices := b.notices.withdraw j
            host := responded b.host g.req.tag .refused [] }) ∧
      (g.decision.ruling = .discard →
        after = .next
          { b with
            chains := s.chains.set w []
            hold := freed b.hold j .answered
            notices := b.notices.withdraw j
            host := responded b.host g.req.tag .ok [] }) ∧
      ∀ x p l, g.decision.ruling = .serve x p → g.req.op = .read → s.image.segments[x].live = some l → l.state = .ready →
        p + g.req.len.toNat ≤ l.length →
        after = .next
          { b with
            chains := s.chains.set w []
            hold := freed b.hold j .served
            notices := b.notices.withdraw j
            host := responded b.host g.req.tag .ok (readBytes s.image.bytes (l.base + p) g.req.len.toNat) })

/-- While the link is STALLED, every event after which a slot is FREE ends the stall, whatever frees it (a decision, an expiry, a
cascade, a wait list worked through, a clearall completion): it is what it is with the link OPEN, followed by the withheld request's
offer to the OPEN link. An event that frees none leaves it withheld, with the same effect as with the link OPEN; status, which shows
the stall, and the host's own offers are not meant. Last, the next states after an hrefuse for a request to the default record's PASS,
which is queued, and to an unordered DEFER window, which takes the slot just freed under its next use
(R32, R148, R149, R153, R184). A host link reset and RESETn drop the withheld request instead (R151, R185). That an
expiry's EXPIRY notice comes before the notices of that offer is the model's choice (log 23). -/
def Obligations.FreeingASlotEndsTheStall : Prop :=
  (∀ (i : Instr) (r : HostRequest) (s t0 : State),
    i.wellFormed = true → (∀ q, i ≠ .hostOffer q) → i ≠ .hostLinkReset → (∀ l, i ≠ .resetn l) → (∀ q p, i ≠ .status q p) →
    s.resetn = .high → s.host.stalled = some r → (∀ j : Fin 16, s.hold.slots[j].hold ≠ none) →
    exec i { s with host := { s.host with stalled := none } } = .next t0 →
    ((∃ j : Fin 16, t0.hold.slots[j].hold = none) → exec i s = exec (.hostOffer r) t0) ∧
    ((∀ j : Fin 16, t0.hold.slots[j].hold ≠ none) →
      exec i s = .next { t0 with host := { t0.host with stalled := some r } })) ∧
  ∀ (seq u : Byte) (k : Fin 16) (h : Hold) (r : HostRequest) (s : State),
    Accepts s → Decides s k u h → s.host.stalled = some r → (∀ e ∈ s.host.tags[h.req.tag], e.member = false) →
    (∀ j : Fin 16, s.hold.slots[j].hold ≠ none) → r.tag ≠ h.req.tag → s.host.tags[r.tag] = none → malformed r = false →
    let b := ended s k h .refused [] .refused (replied s.port 7 0x34 seq .done [])
    let after := exec (.hrefuse seq [indexByte k, u, 0x01]) s
    (s.windows.matched r.addr = none → s.windows.straddles none r.addr r.len.toNat = false →
      s.windows.activeDefault.policyFor r.op = .pass →
      after = .next
        { b with
          host := { busyTag b.host r.tag .queued none false with stalled := none }
          issue := { b.issue with queue := b.issue.queue ++ [issueEntry r r.addr] } }) ∧
    ∀ w, s.windows.matched r.addr = some w → s.windows.straddles (some w) r.addr r.len.toNat = false →
      s.windows.active[w].policyFor r.op = .defer → s.windows.active[w].ordered = false → s.windows.tripRemaining[w] = 0 →
      after = .next
        { b with
          windows := s.windows.countMatch w r.op
          host := { busyTag b.host r.tag (.held k) (some w) false with stalled := none }
          hold := heldSlot b.hold k
            { reason := .defer
              req := r
              decision :=
                { window := w
                  ruling := .defer
                  downstream :=
                    match s.windows.active[w].remap with
                    | none => r.addr
                    | some t => t + (r.addr - s.windows.active[w].base)
                  timeoutClass := s.windows.active[w].timeoutClass
                  expiryAction := s.windows.active[w].expiryAction }
              deadline := some (b.hold.timeouts[s.windows.active[w].timeoutClass])
              renewals := 0
              notice := .queued }
          notices := b.notices.append (.hold k (s.hold.slots[k].use + 1) r.op w r.addr r.len) }

/-- A deadline that runs out ends its hold with last outcome EXPIRED and an EXPIRY notice behind the withdrawal of the hold's own:
EXPIRE answers the host EXPIRED, FORWARD queues the request at its downstream address. The slot leaves the wait lists. The other
deadlines have counted down by what this one had left, and a slot without a running deadline has no expiry: these two are the
model's reading of R34, R39 and R43 (log 3, log 4). The notices' order is that of R92. -/
def Obligations.ExpiryEndsTheHold : Prop :=
  ∀ (k : Fin 16) (s : State), s.resetn = .high →
    (∀ (h : Hold) (d : Nat), s.hold.slots[k].hold = some h → h.deadline = some d → s.host.stalled = none →
      let after (a : ExpiryAction) : State :=
        { s with
          hold := freed (s.hold.elapse d) k .expired
          image := s.image.leaveLists k
          notices := (s.notices.withdraw k).post
            (.expiry k s.hold.slots[k].use h.decision.window h.req.addr a) }
      (h.decision.expiryAction = .expire → (∀ e ∈ s.host.tags[h.req.tag], e.member = false) →
        exec (.expiry k) s = .next { after .expire with host := responded s.host h.req.tag .expired [] }) ∧
      (h.decision.expiryAction = .forward →
        exec (.expiry k) s = .next
          { after .forward with
            issue := { s.issue with queue := s.issue.queue ++ [issueEntry h.req h.decision.downstream] }
            host :=
              { s.host with
                tags := s.host.tags.set h.req.tag
                  (s.host.tags[h.req.tag].map fun e => { e with place := .queued }) } })) ∧
    ((∀ h, s.hold.slots[k].hold = some h → h.deadline = none) → exec (.expiry k) s = .next s)

/-! ### Notices (R86 to R101) -/

/-- nfetch returns the head with its number, kind, count and detail and the number of entries; an unpresented head becomes presented,
and with it the notice state of the hold a HOLD head names; an empty queue is EMPTY with the counter (R95). That a HOLD head whose
slot is FREE or under another use marks no hold is the model's reading of a case that R100 excludes (log 22). The 14 bytes of the
record are written out (R193). -/
def Obligations.NfetchPresentsTheHead : Prop :=
  ∀ (seq : Byte) (s : State), Accepts s →
    (s.notices.entries = [] →
      exec (.nfetch seq []) s = .next
        { s with port := replied s.port 4 0x40 seq .empty (le 2 s.notices.counter.toNat) }) ∧
    (∀ n rest, s.notices.entries = n :: rest →
      let port := replied s.port 4 0x40 seq .done (n.encode ++ [BitVec.ofNat 8 (rest.length + 1)])
      (s.notices.presented = true → exec (.nfetch seq []) s = .next { s with port := port }) ∧
      (s.notices.presented = false →
        let t : State := { s with notices := { s.notices with presented := true }, port := port }
        (n.detail.kind ≠ .hold → exec (.nfetch seq []) s = .next t) ∧
        ∀ k u op w a len, n.detail = .hold k u op w a len →
          (∀ h, s.hold.slots[k].hold = some h → s.hold.slots[k].use = u →
            exec (.nfetch seq []) s = .next { t with hold := heldSlot s.hold k { h with notice := .presented } }) ∧
          ((s.hold.slots[k].hold = none ∨ s.hold.slots[k].use ≠ u) → exec (.nfetch seq []) s = .next t))) ∧
    (∀ n : Notice, n.encode =
      le 2 n.seq.toNat ++
        [match n.detail with
          | .hold .. => 0x01
          | .expiry .. => 0x02
          | .reqError .. => 0x03
          | .tagClash .. => 0x04
          | .linkReset .. => 0x05
          | .trip .. => 0x06
          | .imageFault .. => 0x07
          | .memoryFault .. => 0x08
          | .holdFull .. => 0x09,
         BitVec.ofNat 8 n.count] ++
        (match n.detail with
         | .hold k u op w a len => [indexByte k, u, if op = .read then 0x00 else 0x01, indexByte w] ++ le 5 a.toNat ++ [len]
         | .expiry k u w a x => [indexByte k, u, indexByte w] ++ le 5 a.toNat ++ [if x = .expire then 0x00 else 0x01, 0]
         | .reqError t a c => [indexByte t] ++ le 5 a.toNat ++ [if c = .malformed then 0x01 else 0x02, 0, 0, 0]
         | .tagClash t => indexByte t :: List.replicate 9 0
         | .linkReset h o => [BitVec.ofNat 8 h, BitVec.ofNat 8 o] ++ List.replicate 8 0
         | .trip w => indexByte w :: List.replicate 9 0
         | .imageFault g c =>
           [indexByte g,
            match c with | .crc => 0x01 | .range => 0x02 | .failed => 0x03 | .freed => 0x04 | .aborted => 0x05] ++
             List.replicate 8 0
         | .memoryFault m (.hostTag t a) => [indexByte m, 0x01] ++ le 5 a.toNat ++ [indexByte t, 0, 0]
         | .memoryFault m (.orphan a) => [indexByte m, 0x01] ++ le 5 a.toNat ++ [0x40, 0, 0]
         | .memoryFault m .unexpected => [indexByte m, 0, 0, 0, 0, 0, 0, 0x41, 0, 0]
         | .holdFull t w => [indexByte t, indexByte w] ++ List.replicate 8 0)) ∧
    ∀ p, p ≠ [] →
      exec (.nfetch seq p) s = .next { s with port := replied s.port (p.length + 4) 0x40 seq .invalid [] }

/-- nack removes the presented head whose number it gives, the next entry then unpresented and ATTN negated on the last, and tells
the hold a HOLD notice named; in every other case it is MISMATCH and changes nothing (R97, R98, R101). -/
def Obligations.NackRemovesThePresentedHead : Prop :=
  ∀ (seq : Byte) (v : Word16) (s : State), Accepts s →
    (s.notices.entries = [] →
      exec (.nack seq (le 2 v.toNat)) s = .next
        { s with port := replied s.port 6 0x41 seq .mismatch (le 2 s.notices.counter.toNat ++ [0x00]) }) ∧
    (∀ n rest, s.notices.entries = n :: rest →
      let t : State :=
        { s with
          notices := { s.notices with entries := rest, presented := false, attn := !rest.isEmpty }
          port := replied s.port 6 0x41 seq .done [BitVec.ofNat 8 rest.length] }
      (s.notices.presented = true → n.seq = v →
        (n.detail.kind ≠ .hold → exec (.nack seq (le 2 v.toNat)) s = .next t) ∧
        ∀ k u op w a len, n.detail = .hold k u op w a len →
          (∀ h, s.hold.slots[k].hold = some h → s.hold.slots[k].use = u →
            exec (.nack seq (le 2 v.toNat)) s = .next { t with hold := heldSlot s.hold k { h with notice := .none } }) ∧
          ((s.hold.slots[k].hold = none ∨ s.hold.slots[k].use ≠ u) →
            exec (.nack seq (le 2 v.toNat)) s = .next t)) ∧
      ((s.notices.presented = false ∨ n.seq ≠ v) →
        exec (.nack seq (le 2 v.toNat)) s = .next
          { s with
            port := replied s.port 6 0x41 seq .mismatch
              (le 2 n.seq.toNat ++ [if s.notices.presented = true then 0x02 else 0x01]) })) ∧
    ∀ p, p.length ≠ 2 →
      exec (.nack seq p) s = .next { s with port := replied s.port (p.length + 4) 0x41 seq .invalid [] }

/-- An event posted is merged into the unpresented entry of its kind, whose count goes up to at most 255 and which keeps its place,
number and detail; without one it is appended under the counter's number and asserts ATTN. A HOLD notice is always appended, and never
merged. A withdrawn HOLD notice leaves no trace: the entries behind it take numbers one less, the counter goes back by one, and ATTN is
negated if nothing is left; with no unpresented HOLD of the slot nothing changes (R88 to R91, R93, R101). That a withdrawal finds the
first unpresented HOLD of its slot by the slot's number is the model's reading (log 19). -/
def Obligations.NoticesMergeAppendAndWithdraw : Prop :=
  (∀ (q : NoticeQueue) (d : Detail), d.kind ≠ .hold →
    (∀ (a b : List Notice) (n : Notice), q.unpresented = a ++ n :: b → n.detail.kind = d.kind →
      (∀ m ∈ a, m.detail.kind ≠ d.kind) →
      q.post d =
        { q with
          entries := q.fixed ++ a ++ { n with count := if n.count < 255 then n.count + 1 else n.count } :: b }) ∧
    ((∀ m ∈ q.unpresented, m.detail.kind ≠ d.kind) →
      q.post d =
        { q with
          entries := q.entries ++ [{ seq := q.counter, count := 1, detail := d }]
          counter := q.counter + 1
          attn := true })) ∧
  (∀ (q : NoticeQueue) (d : Detail),
    q.append d =
      { q with
        entries := q.entries ++ [{ seq := q.counter, count := 1, detail := d }]
        counter := q.counter + 1
        attn := true }) ∧
  (∀ (q : NoticeQueue) (k : Fin 16), (∀ m ∈ q.unpresented, m.isHoldOf k = false) → q.withdraw k = q) ∧
  ∀ (q : NoticeQueue) (k : Fin 16) (a b : List Notice) (n : Notice),
    q.unpresented = a ++ n :: b → n.isHoldOf k = true → (∀ m ∈ a, m.isHoldOf k = false) →
    let es := q.fixed ++ a ++ b.map fun m => { m with seq := m.seq - 1 }
    q.withdraw k = { q with entries := es, counter := q.counter - 1, attn := !es.isEmpty }

/-! ### The image store (R107 to R129) -/

/-- sload begins the loading of an EMPTY segment over a range no live segment covers, or the reload of a READY or FAILED segment under
its own geometry: LOADING with cursor 0, the bytes as they are. A range out of R111's bounds is INVALID, a LOADING segment
WRONG_STATE, another geometry or an overlap GEOMETRY with the range in the way, a segment byte outside 0 to 15 INVALID, and then
nothing changes (R111, R112). -/
def Obligations.SloadBeginsLoading : Prop :=
  ∀ (seq : Byte) (g : Fin 16) (base length : Nat) (s : State), Accepts s → s.image.Geometry → base < 65536 →
    length < 65536 →
    let p := indexByte g :: (le 2 base ++ le 2 length)
    let inRange := base % 8 = 0 ∧ base ≤ 16376 ∧ length % 8 = 0 ∧ 8 ≤ length ∧ base + length ≤ 16384
    let meets (j : Fin 16) :=
      ∃ l ∈ s.image.segments[j].live, ∃ a, base ≤ a ∧ a < base + length ∧ l.base ≤ a ∧ a < l.base + l.length
    let refused (r : Result) (q : List Byte) : Host.Outcome State Fault Refusal :=
      .next { s with port := replied s.port 9 0x50 seq r q }
    let begun : Host.Outcome State Fault Refusal := .next
      { s with
        image :=
          { s.image with
            segments := s.image.segments.set g
              { s.image.segments[g] with
                live := some { state := .loading, base := base, length := length, cursor := 0 } } }
        port := replied s.port 9 0x50 seq .done [] }
    (inRange → s.image.segments[g].live = none → (∀ j, ¬ meets j) → exec (.sload seq p) s = begun) ∧
    (inRange → s.image.segments[g].live = none → ∀ j l, meets j → (∀ i, i < j → ¬ meets i) →
      s.image.segments[j].live = some l →
      exec (.sload seq p) s = refused .geometry (indexByte j :: (le 2 l.base ++ le 2 l.length))) ∧
    (inRange → ∀ l, s.image.segments[g].live = some l → l.state ≠ .loading → l.base = base → l.length = length →
      exec (.sload seq p) s = begun) ∧
    (inRange → ∀ l, s.image.segments[g].live = some l → l.state ≠ .loading → ¬ (l.base = base ∧ l.length = length) →
      exec (.sload seq p) s = refused .geometry (indexByte g :: (le 2 l.base ++ le 2 l.length))) ∧
    (inRange → ∀ l, s.image.segments[g].live = some l → l.state = .loading →
      exec (.sload seq p) s = refused .wrongState [0x01]) ∧
    (¬ inRange → exec (.sload seq p) s = refused .invalid []) ∧
    ∀ a : Byte, 16 ≤ a.toNat → exec (.sload seq (a :: (le 2 base ++ le 2 length))) s = refused .invalid []

/-- sdata writes its bytes into a LOADING segment at the load cursor and advances the cursor by their number; a failed check writes
nothing and leaves the cursor, a segment byte outside 0 to 15 among them (R113). The segment's range lies inside the store (R108);
the canonical form of the bytes is the model's choice of form (log 16), which every step keeps. -/
def Obligations.SdataWritesAtTheCursor : Prop :=
  ∀ (seq : Byte) (g : Fin 16) (offset : Nat) (data : List Byte) (s : State),
    Accepts s → s.image.Geometry → Memory.wf s.image.bytes = true → offset < 65536 →
    let p := indexByte g :: (le 2 offset ++ data)
    let refused (r : Result) (q : List Byte) :=
      exec (.sdata seq p) s = .next { s with port := replied s.port (data.length + 7) 0x51 seq r q }
    (∀ a : Byte, 16 ≤ a.toNat →
      exec (.sdata seq (a :: (le 2 offset ++ data))) s =
        .next { s with port := replied s.port (data.length + 7) 0x51 seq .invalid [] }) ∧
    (16383 < offset ∨ data = [] ∨ 128 < data.length → refused .invalid []) ∧
    (offset ≤ 16383 → 1 ≤ data.length → data.length ≤ 128 →
      (s.image.segments[g].live = none → refused .wrongState [0x00]) ∧
      ∀ l, s.image.segments[g].live = some l →
        (l.state = .ready → refused .wrongState [0x02]) ∧
        (l.state = .failed → refused .wrongState [0x03]) ∧
        (l.state = .loading → offset ≠ l.cursor → refused .sequence (le 2 l.cursor)) ∧
        (l.state = .loading → offset = l.cursor → l.length < offset + data.length → refused .badLength (le 2 l.cursor)) ∧
        (l.state = .loading → offset = l.cursor → offset + data.length ≤ l.length →
          ∃ bytes,
            exec (.sdata seq p) s = .next
              { s with
                image :=
                  { bytes := bytes
                    segments := s.image.segments.set g
                      { s.image.segments[g] with live := some { l with cursor := l.cursor + data.length } } }
                port := replied s.port (data.length + 7) 0x51 seq .done (le 2 (l.cursor + data.length)) } ∧
            (∀ i : Fin data.length, byteAt bytes (l.base + offset + i) = data[i]) ∧
            ∀ x, (x < l.base + offset ∨ l.base + offset + data.length ≤ x) →
              byteAt bytes x = byteAt s.image.bytes x))

/-- scheck of a fully loaded LOADING segment makes the port BUSY with it and changes nothing else; a segment in another state is
WRONG_STATE, one not fully loaded INCOMPLETE with its cursor, a segment byte outside 0 to 15 INVALID (R115, R177). -/
def Obligations.ScheckNeedsALoadedSegment : Prop :=
  ∀ (seq a : Byte) (crc : Word32) (s : State), Accepts s →
    let p := a :: le 4 crc.toNat
    let refused (r : Result) (q : List Byte) :=
      exec (.scheck seq p) s = .next { s with port := replied s.port 9 0x52 seq r q }
    (16 ≤ a.toNat → refused .invalid []) ∧
    ∀ g : Fin 16, a = indexByte g →
      (s.image.segments[g].live = none → refused .wrongState [0x00]) ∧
      ∀ l, s.image.segments[g].live = some l →
        (l.state = .ready → refused .wrongState [0x02]) ∧
        (l.state = .failed → refused .wrongState [0x03]) ∧
        (l.state = .loading → l.cursor ≠ l.length → refused .incomplete (le 2 l.cursor)) ∧
        (l.state = .loading → l.cursor = l.length →
          exec (.scheck seq p) s = .next { s with port := begun s.port 9 (.scheck seq g crc) })

/-- The completion of scheck makes a segment without waiters READY where the computed CRC is the one given, and else FAILED with an
IMAGE_FAULT of cause CRC; DONE carries the new state, the CRC computed, and 0 members (R116). -/
def Obligations.ScheckJudgesTheSegment : Prop :=
  ∀ (seq : Byte) (g : Fin 16) (crc : Word32) (l : Live) (s : State),
    s.resetn = .high → s.port.phase = .busy (.scheck seq g crc) → s.image.segments[g].live = some l →
    s.image.segments[g].waiting = [] →
    let computed := crc32 (readBytes s.image.bytes l.base l.length)
    let after (n : LiveState) (code : Byte) : State :=
      { s with
        image :=
          { s.image with segments := s.image.segments.set g { live := some { l with state := n }, waiting := [] } }
        port := completed s.port 0x52 seq .done (code :: (le 4 computed.toNat ++ [0x00])) }
    (computed = crc → exec .scheckCompletion s = .next (after .ready 0x02)) ∧
    (computed ≠ crc →
      exec .scheckCompletion s = .next { after .failed 0x03 with notices := s.notices.post (.imageFault g .crc) })

/-- A wait list worked through by the completion of scheck, every list and op: with the CRC given the segment is READY and each member
is answered in list order on the bytes as the members before it left them, OK and SERVED within the length, FAULT and REFUSED with an
IMAGE_FAULT of cause RANGE past it; with another CRC it is FAILED, one IMAGE_FAULT of cause CRC is posted, and each member is FAULT and
REFUSED. The list is empty and DONE carries the members' number (R116, R122, R123, R126). No chain has members and no request is
withheld there. A member that is a chain head is answered as one in no chain, and the whole cascade of its chain comes before the next
member of the list, at the completion of scheck, at sabort and at sfree (R63). -/
def Obligations.ReadySegmentServesItsWaiter : Prop :=
  (∀ (seq : Byte) (g : Fin 16) (crc : Word32) (l : Live) (hs : Fin 16 → Hold) (x : Fin 16 → Nat) (s : State),
    s.resetn = .high → s.port.phase = .busy (.scheck seq g crc) → s.image.segments[g].live = some l →
    s.host.stalled = none → (∀ t : Fin 32, ∀ e ∈ s.host.tags[t], e.member = false) →
    let ks := s.image.segments[g].waiting
    ks.Nodup → (∀ k ∈ ks, s.hold.slots[k].hold = some (hs k) ∧ (hs k).decision.ruling = .serve g (x k)) →
    let computed := crc32 (readBytes s.image.bytes l.base l.length)
    let after (n : LiveState) (code : Byte) (m : List Host.Cell) (q : NoticeQueue) (rs : List HostResponse)
        (served : Fin 16 → Bool) : Prop :=
      ∃ t, exec .scheckCompletion s = .next t ∧
        t.image =
          { bytes := m
            segments := s.image.segments.set g { live := some { l with state := n }, waiting := [] } } ∧
        t.host.sent = s.host.sent ++ rs ∧ t.host.stalled = none ∧
        (∀ u : Fin 32, t.host.tags[u] = if u ∈ ks.map (fun k => (hs k).req.tag) then none else s.host.tags[u]) ∧
        (∀ k : Fin 16, t.hold.slots[k] =
          if k ∈ ks then
            { use := s.hold.slots[k].use + 1, last := if served k then .served else .refused, hold := none }
          else s.hold.slots[k]) ∧
        t.notices = q ∧
        t.port = completed s.port 0x52 seq .done (code :: (le 4 computed.toNat ++ [BitVec.ofNat 8 ks.length])) ∧
        t = { s with
          image := t.image, host := t.host, hold := { s.hold with slots := t.hold.slots }, notices := t.notices, port := t.port }
    (computed = crc →
      let out := servedInOrder g l (ks.map fun k => (k, (hs k).req, x k)) s.image.bytes s.notices
      after .ready 0x02 out.1 out.2.1 out.2.2 fun k => decide (x k + (hs k).req.len.toNat ≤ l.length)) ∧
    (computed ≠ crc →
      after .failed 0x03 s.image.bytes (ks.foldl (fun q k => q.withdraw k) (s.notices.post (.imageFault g .crc)))
        (ks.map fun k => { tag := (hs k).req.tag, status := .fault, data := [] }) fun _ => false)) ∧
  (∀ (g k : Fin 16) (h : Hold) (w : Fin 24) (rest : List (Fin 32)) (s : State),
    s.hold.slots[k].hold = some h → Heads s w h.req.tag rest →
    State.workMember g s k = State.cascade w rest (State.workMember g (outOfChain s h.req.tag) k)) ∧
  ∀ (seq : Byte) (g : Fin 16) (l : Live) (s : State),
    s.resetn = .high → s.host.stalled = none → s.image.segments[g].live = some l →
    let ks := s.image.segments[g].waiting
    let n := BitVec.ofNat 8 ks.length
    let turned (x : Option LiveState) (q : NoticeQueue) : State :=
      { s with
        notices := q
        image :=
          { s.image with
            segments := s.image.segments.set g { live := x.map fun y => { l with state := y }, waiting := ks } } }
    let worked (b : State) : State := ks.foldl (State.workMember g) b
    (∀ crc, s.port.phase = .busy (.scheck seq g crc) →
      let computed := crc32 (readBytes s.image.bytes l.base l.length)
      (computed = crc →
        exec .scheckCompletion s = .next
          { worked (turned (some .ready) s.notices) with
            port := completed s.port 0x52 seq .done (0x02 :: (le 4 computed.toNat ++ [n])) }) ∧
      (computed ≠ crc →
        exec .scheckCompletion s = .next
          { worked (turned (some .failed) (s.notices.post (.imageFault g .crc))) with
            port := completed s.port 0x52 seq .done (0x03 :: (le 4 computed.toNat ++ [n])) })) ∧
    (Accepts s → l.state = .loading →
      exec (.sabort seq [indexByte g]) s = .next
        { worked (turned (some .failed) (s.notices.post (.imageFault g .aborted))) with
          port := replied s.port 5 0x53 seq .done [n] }) ∧
    (Accepts s → ks ≠ [] →
      (∀ i : Fin 24, ∀ r ∈ [s.windows.staged[i], s.windows.active[i]],
        ¬ (r.enabled = true ∧ r.usesServe = true ∧ ∃ y ∈ r.segment, y.segment = g)) →
      exec (.sfree seq [indexByte g]) s = .next
        { worked (turned none (s.notices.post (.imageFault g .freed))) with
          port := replied s.port 5 0x54 seq .done [n] })

/-- sabort takes a LOADING segment to FAILED and posts IMAGE_FAULT ABORTED; sfree takes a segment no window refers to back to EMPTY
and posts IMAGE_FAULT FREED where requests wait. Each answers every waiter FAULT in list order, frees their slots as REFUSED, and
returns their number; the bytes keep their values. No chain has members and no request is withheld here (R117 to R119, R126). -/
def Obligations.AbortAndFreeFaultTheWaiters : Prop :=
  ∀ (seq : Byte) (g : Fin 16) (l : Live) (hs : Fin 16 → Hold) (s : State),
    Accepts s → s.host.stalled = none → (∀ t : Fin 32, ∀ e ∈ s.host.tags[t], e.member = false) →
    s.image.segments[g].live = some l →
    let ks := s.image.segments[g].waiting
    ks.Nodup → (∀ k ∈ ks, s.hold.slots[k].hold = some (hs k)) →
    let after (code : Byte) (n : Option Live) (t : State) :=
      t.image = { s.image with segments := s.image.segments.set g { live := n, waiting := [] } } ∧
      t.host.sent = s.host.sent ++ ks.map (fun k => { tag := (hs k).req.tag, status := .fault, data := [] }) ∧
      t.host.stalled = none ∧
      (∀ u : Fin 32, t.host.tags[u] = if u ∈ ks.map (fun k => (hs k).req.tag) then none else s.host.tags[u]) ∧
      (∀ k : Fin 16, t.hold.slots[k] =
        if k ∈ ks then { use := s.hold.slots[k].use + 1, last := .refused, hold := none } else s.hold.slots[k]) ∧
      t.port = replied s.port 5 code seq .done [BitVec.ofNat 8 ks.length] ∧
      t = { s with image := t.image, host := t.host, hold := { s.hold with slots := t.hold.slots }, notices := t.notices, port := t.port }
    (l.state = .loading →
      ∃ t, exec (.sabort seq [indexByte g]) s = .next t ∧ after 0x53 (some { l with state := .failed }) t ∧
        t.notices = ks.foldl (fun q k => q.withdraw k) (s.notices.post (.imageFault g .aborted))) ∧
    ((∀ i : Fin 24, ∀ r ∈ [s.windows.staged[i], s.windows.active[i]],
        ¬ (r.enabled = true ∧ r.usesServe = true ∧ ∃ x ∈ r.segment, x.segment = g)) →
      ∃ t, exec (.sfree seq [indexByte g]) s = .next t ∧ after 0x54 none t ∧
        t.notices =
          if ks = [] then s.notices else ks.foldl (fun q k => q.withdraw k) (s.notices.post (.imageFault g .freed)))

/-- sabort of a segment that is not LOADING is WRONG_STATE; sfree of a segment a window refers to is IN_USE with the lowest referring
index, STAGED before ACTIVE, and of an EMPTY one DONE with nothing changed; a segment byte outside 0 to 15 is INVALID
(R117, R119, R190). -/
def Obligations.AbortAndFreeAreRefused : Prop :=
  ∀ (seq : Byte) (s : State), Accepts s →
    let ends (code : Byte) (r : Result) (q : List Byte) : Host.Outcome State Fault Refusal :=
      .next { s with port := replied s.port 5 code seq r q }
    let refers (r : WindowRecord) (g : Fin 16) := r.enabled = true ∧ r.usesServe = true ∧ ∃ x ∈ r.segment, x.segment = g
    (∀ g : Fin 16,
      (s.image.segments[g].live = none → exec (.sabort seq [indexByte g]) s = ends 0x53 .wrongState [0x00]) ∧
      (∀ l, s.image.segments[g].live = some l →
        (l.state = .ready → exec (.sabort seq [indexByte g]) s = ends 0x53 .wrongState [0x02]) ∧
        (l.state = .failed → exec (.sabort seq [indexByte g]) s = ends 0x53 .wrongState [0x03])) ∧
      (∀ i : Fin 24,
        (∀ j : Fin 24, j < i → ¬ refers s.windows.staged[j] g ∧ ¬ refers s.windows.active[j] g) →
        (refers s.windows.staged[i] g → exec (.sfree seq [indexByte g]) s = ends 0x54 .inUse [0x00, indexByte i]) ∧
        (¬ refers s.windows.staged[i] g → refers s.windows.active[i] g →
          exec (.sfree seq [indexByte g]) s = ends 0x54 .inUse [0x01, indexByte i])) ∧
      ((∀ i : Fin 24, ¬ refers s.windows.staged[i] g ∧ ¬ refers s.windows.active[i] g) →
        s.image.segments[g].live = none → exec (.sfree seq [indexByte g]) s = ends 0x54 .done [0x00])) ∧
    ∀ a : Byte, 16 ≤ a.toNat →
      exec (.sabort seq [a]) s = ends 0x53 .invalid [] ∧ exec (.sfree seq [a]) s = ends 0x54 .invalid []

/-- sread returns count bytes of a segment in any state but EMPTY, from its offset on, and changes nothing; a range past the segment's
length is BAD_LENGTH, an EMPTY segment WRONG_STATE, a parameter out of its set INVALID (R120). -/
def Obligations.SreadReturnsSegmentBytes : Prop :=
  ∀ (seq a n : Byte) (offset : Nat) (s : State), Accepts s → offset < 65536 →
    let p := a :: (le 2 offset ++ [n])
    let answer (r : Result) (q : List Byte) :=
      exec (.sread seq p) s = .next { s with port := replied s.port 8 0x55 seq r q }
    (16 ≤ a.toNat ∨ 16383 < offset ∨ n = 0 ∨ 128 < n.toNat → answer .invalid []) ∧
    ∀ g : Fin 16, a = indexByte g → offset ≤ 16383 → 1 ≤ n.toNat → n.toNat ≤ 128 →
      (s.image.segments[g].live = none → answer .wrongState [0x00]) ∧
      ∀ l, s.image.segments[g].live = some l →
        (l.length < offset + n.toNat → answer .badLength (le 2 l.length)) ∧
        (offset + n.toNat ≤ l.length →
          ∃ d : List Byte, answer .done d ∧ d.length = n.toNat ∧
            ∀ i : Fin d.length, d[i] = byteAt s.image.bytes (l.base + offset + i))

/-- sinfo returns the record of its segment, and status the occupancy of the part, each read in one event and changing nothing
(R121, R182, R194). -/
def Obligations.SinfoAndStatusReadTheirRecords : Prop :=
  ∀ (seq : Byte) (s : State), Accepts s →
    (∀ g : Fin 16,
      let x := s.image.segments[g]
      let waiters := BitVec.ofNat 8 x.waiting.length :: x.waiting.flatMap fun k => [indexByte k, s.hold.slots[k].use]
      (x.live = none →
        exec (.sinfo seq [indexByte g]) s = .next
          { s with port := replied s.port 5 0x56 seq .done ([indexByte g, 0, 0, 0, 0, 0, 0, 0] ++ waiters) }) ∧
      ∀ l, x.live = some l →
        exec (.sinfo seq [indexByte g]) s = .next
          { s with
            port := replied s.port 5 0x56 seq .done
              ([indexByte g, match l.state with | .loading => 0x01 | .ready => 0x02 | .failed => 0x03] ++
                le 2 l.base ++ le 2 l.length ++ le 2 l.cursor ++ waiters) }) ∧
    (∀ a : Byte, 16 ≤ a.toNat →
      exec (.sinfo seq [a]) s = .next { s with port := replied s.port 5 0x56 seq .invalid [] }) ∧
    let held (r : Reason) :=
      (List.finRange 16).countP fun k => match s.hold.slots[k].hold with | none => false | some h => h.reason = r
    let count (p : Forward → Bool) := (List.finRange 16).countP fun m => p s.issue.forward[m]
    exec (.status seq []) s = .next
      { s with
        port := replied s.port 4 0x70 seq .done
          ([s.windows.generation] ++ packFlags ((List.finRange 24).map fun i => s.windows.active[i].enabled) ++
            [BitVec.ofNat 8 (held .defer), BitVec.ofNat 8 (held .imageWait), BitVec.ofNat 8 (held .order),
             BitVec.ofNat 8 s.issue.queue.length,
             BitVec.ofNat 8 (count fun f => match f with | .busy .. => true | _ => false),
             BitVec.ofNat 8 (count fun f => match f with | .orphan .. => true | _ => false),
             BitVec.ofNat 8 s.notices.entries.length] ++
            le 2 s.notices.counter.toNat ++ [if s.host.stalled = none then 0x00 else 0x01]) }

/-! ### Admission (R133 to R149) -/

/-- The first failing check ends an offer: a busy tag has the request discarded and TAG_CLASH posted, a malformed request and one
that straddles are answered FAULT with a REQ_ERROR, and nothing else changes (R7, R8, R138 to R141). -/
def Obligations.FailedChecksEndTheOffer : Prop :=
  ∀ (r : HostRequest) (s : State), s.resetn = .high → s.host.stalled = none →
    let fault (c : ReqCause) : Host.Outcome State Fault Refusal := .next
      { s with
        host := answered s.host r.tag .fault []
        notices := s.notices.post (.reqError r.tag r.addr c) }
    let n := r.len.toNat
    let sound := 1 ≤ n ∧ r.addr.toNat % 128 + n ≤ 128 ∧ (r.op = .read → r.mask = none ∧ r.data = []) ∧
      (r.op = .write → r.data.length = n ∧ ∀ m ∈ r.mask, m.length = n)
    let contains (i : Fin 24) := s.windows.active[i].enabled = true ∧ s.windows.active[i].base.toNat ≤ r.addr.toNat ∧
      r.addr.toNat < s.windows.active[i].base.toNat + s.windows.active[i].size
    (∀ e, s.host.tags[r.tag] = some e →
      exec (.hostOffer r) s = .next { s with notices := s.notices.post (.tagClash r.tag) }) ∧
    (s.host.tags[r.tag] = none → ¬ sound → exec (.hostOffer r) s = fault .malformed) ∧
    (s.host.tags[r.tag] = none → sound →
      (∀ w : Fin 24, contains w → (∀ i : Fin 24, i ≠ w → ¬ contains i) →
        (s.windows.active[w].base.toNat + s.windows.active[w].size < r.addr.toNat + n ∨
          ∃ t, s.windows.active[w].remap = some t ∧
            128 < (t.toNat + (r.addr.toNat - s.windows.active[w].base.toNat)) % 128 + n) →
        exec (.hostOffer r) s = fault .straddle) ∧
      ((∀ i : Fin 24, ¬ contains i) →
        (∃ i : Fin 24, s.windows.active[i].enabled = true ∧
          r.addr.toNat < s.windows.active[i].base.toNat ∧ s.windows.active[i].base.toNat < r.addr.toNat + n ∧
          0 < s.windows.active[i].size) →
        exec (.hostOffer r) s = fault .straddle))

/-- An accepted request that needs no slot is dispatched at once: DENY answers REFUSED, DISCARD OK, and PASS appends the request to the
issue queue at its downstream address, as chain head where the window is ordered; a default match likewise at its own address, in
no chain and uncounted. A request matches the enabled window that contains its address, and else the default record; its downstream
address is target + (address - base) where the window has a remap target, and else the address itself
(R2, R5, R6, R10, R57, R143, R144). -/
def Obligations.RequestsWithoutASlotAreDispatched : Prop :=
  ∀ (r : HostRequest) (s : State),
    (∀ w, Offered s r (some w) → (s.windows.active[w].ordered = true → s.chains[w] = []) →
      let c := s.countAccepted w r.op
      let p := s.windows.active[w].policyFor r.op
      (p = .deny → exec (.hostOffer r) s = .next { c with host := answered s.host r.tag .refused [] }) ∧
      (p = .discard → exec (.hostOffer r) s = .next { c with host := answered s.host r.tag .ok [] }) ∧
      (p = .pass →
        exec (.hostOffer r) s = .next
          { c with
            issue :=
              { s.issue with
                queue := s.issue.queue ++
                  [issueEntry r
                    (match s.windows.active[w].remap with
                     | none => r.addr
                     | some t => t + (r.addr - s.windows.active[w].base))] }
            host := busyTag s.host r.tag .queued (some w) s.windows.active[w].ordered
            chains := joined s w r.tag })) ∧
    (Offered s r none →
      let p := s.windows.activeDefault.policyFor r.op
      (p = .deny → exec (.hostOffer r) s = .next { s with host := answered s.host r.tag .refused [] }) ∧
      (p = .discard → exec (.hostOffer r) s = .next { s with host := answered s.host r.tag .ok [] }) ∧
      (p = .pass →
        exec (.hostOffer r) s = .next
          { s with
            issue := { s.issue with queue := s.issue.queue ++ [issueEntry r r.addr] }
            host := busyTag s.host r.tag .queued none false })) ∧
    let contains (i : Fin 24) := s.windows.active[i].enabled = true ∧ s.windows.active[i].base.toNat ≤ r.addr.toNat ∧
      r.addr.toNat < s.windows.active[i].base.toNat + s.windows.active[i].size
    (∀ w : Fin 24, contains w → (∀ i : Fin 24, i ≠ w → ¬ contains i) → s.windows.matched r.addr = some w) ∧
    ((∀ i : Fin 24, ¬ contains i) → s.windows.matched r.addr = none)

/-- A SERVE request to a segment that is not LOADING is answered at once: within a READY segment a READ takes its bytes and a WRITE
stores its enabled bytes, past its length it is FAULT with RANGE, and of a FAILED or EMPTY segment FAULT with FAILED
(R11, R122, R123, R125). The canonical form of the bytes is the model's choice (log 16), which every step keeps. That the IMAGE_FAULT
comes behind a TRIP of the same acceptance is the model's reading (log 14). -/
def Obligations.ServedRequestsReadAndWriteTheSegment : Prop :=
  ∀ (r : HostRequest) (w : Fin 24) (f : SegmentRef) (s : State), Memory.wf s.image.bytes = true →
    Offered s r (some w) → (s.windows.active[w].ordered = true → s.chains[w] = []) →
    s.windows.active[w].policyFor r.op = .serve → s.windows.active[w].segment = some f →
    let c := s.countAccepted w r.op
    let at_ := f.offset + (r.addr.toNat - s.windows.active[w].base.toNat)
    let n := r.len.toNat
    let fault (x : ImageCause) : Host.Outcome State Fault Refusal := .next
      { c with host := answered s.host r.tag .fault [], notices := c.notices.post (.imageFault f.segment x) }
    (∀ l, s.image.segments[f.segment].live = some l → l.state = .ready → l.base + l.length ≤ 16384 →
      (at_ + n ≤ l.length → r.op = .read →
        exec (.hostOffer r) s = .next
          { c with host := answered s.host r.tag .ok (readBytes s.image.bytes (l.base + at_) n) }) ∧
      (at_ + n ≤ l.length → r.op = .write →
        ∃ bytes,
          exec (.hostOffer r) s = .next
            { c with host := answered s.host r.tag .ok [], image := { s.image with bytes := bytes } } ∧
          (∀ i : Nat, i < n → byteAt bytes (l.base + at_ + i) =
            if (r.mask.map fun m => m.getD i false) = some false then byteAt s.image.bytes (l.base + at_ + i)
            else r.data.getD i 0) ∧
          ∀ x, (x < l.base + at_ ∨ l.base + at_ + n ≤ x) → byteAt bytes x = byteAt s.image.bytes x) ∧
      (l.length < at_ + n → exec (.hostOffer r) s = fault .range)) ∧
    ((s.image.segments[f.segment].live = none ∨ ∃ l ∈ s.image.segments[f.segment].live, l.state = .failed) →
      exec (.hostOffer r) s = fault .failed)

/-- An accepted request that needs a slot takes the lowest FREE one: for ORDER behind the members of its ordered window's chain,
whatever its policy; else for DEFER with a deadline and a HOLD notice, or for IMAGE_WAIT with a deadline at the tail of its LOADING
segment's wait list. Its decision record holds the window, the policy for the op, the downstream address, for SERVE the segment and
the image offset, and the window's timeout class and expiry action
(R9, R10, R11, R31, R38, R47, R57, R58, R124, R143). That the HOLD notice comes behind a TRIP of the same acceptance is the
model's reading (log 14). -/
def Obligations.RequestsTakeTheLowestFreeSlot : Prop :=
  (∀ (r : HostRequest) (w : Fin 24) (k : Fin 16) (s : State), Offered s r (some w) → LowestFree s k →
    let c := s.countAccepted w r.op
    let rec_ := s.windows.active[w]
    let n := s.hold.timeouts[rec_.timeoutClass]
    let held (x : Reason) (d : Option Nat) (q : NoticeState) : Hold :=
      { reason := x, req := r, decision := s.windows.decide w r, deadline := d, renewals := 0, notice := q }
    let host := busyTag s.host r.tag (.held k) (some w) rec_.ordered
    (rec_.ordered = true → s.chains[w] ≠ [] →
      exec (.hostOffer r) s = .next
        { c with
          hold := heldSlot s.hold k (held .order none .none)
          host := host
          chains := joined s w r.tag }) ∧
    ((rec_.ordered = true → s.chains[w] = []) →
      (rec_.policyFor r.op = .defer →
        exec (.hostOffer r) s = .next
          { c with
            hold := heldSlot s.hold k (held .defer (some n) .queued)
            host := host
            chains := joined s w r.tag
            notices := c.notices.append (.hold k s.hold.slots[k].use r.op w r.addr r.len) }) ∧
      ∀ f l, rec_.policyFor r.op = .serve → rec_.segment = some f → s.image.segments[f.segment].live = some l →
        l.state = .loading →
        exec (.hostOffer r) s = .next
          { c with
            hold := heldSlot s.hold k (held .imageWait (some n) .none)
            host := host
            chains := joined s w r.tag
            image := s.image.setWaiting f.segment (s.image.segments[f.segment].waiting ++ [k]) })) ∧
  ∀ (r : HostRequest) (w : Fin 24) (t : WindowTable), t.active[w].base.toNat ≤ r.addr.toNat →
    let x := t.active[w]
    let d := t.decide w r
    let policy := match r.op with | .read => x.readPolicy | .write => x.writePolicy
    d.window = w ∧ d.timeoutClass = x.timeoutClass ∧ d.expiryAction = x.expiryAction ∧
    (x.remap = none → d.downstream = r.addr) ∧
    (∀ a, x.remap = some a → d.downstream = a + (r.addr - x.base)) ∧
    (policy = .pass → d.ruling = .pass) ∧ (policy = .defer → d.ruling = .defer) ∧
    (policy = .deny → d.ruling = .deny) ∧ (policy = .discard → d.ruling = .discard) ∧
    ∀ f, policy = .serve → x.segment = some f →
      d.ruling = .serve f.segment (f.offset + (r.addr.toNat - x.base.toNat))

/-- A request that needs a slot while every slot is HELD is not accepted: the link is STALLED on it and HOLD_FULL is posted, with no
trip and no count; and while the link is STALLED, an offer is the withheld request's own and has no further effect
(R12, R32, R146, R147; that an offer of any other request is without effect is the model's choice, log 8). -/
def Obligations.OffersStallWithoutASlot : Prop :=
  (∀ (r : HostRequest) (w : Fin 24) (s : State), Offered s r (some w) → (∀ k : Fin 16, s.hold.slots[k].hold ≠ none) →
    (s.windows.active[w].policyFor r.op = .defer ∨ (s.windows.active[w].ordered = true ∧ s.chains[w] ≠ []) ∨
      (s.windows.active[w].policyFor r.op = .serve ∧
        ∃ f ∈ s.windows.active[w].segment, s.image.isLoading f.segment = true)) →
    exec (.hostOffer r) s = .next
      { s with
        host := { s.host with stalled := some r }
        notices := s.notices.post (.holdFull r.tag w) }) ∧
  ∀ (r q : HostRequest) (s : State), s.host.stalled = some q → exec (.hostOffer r) s = .next s

/-- What acceptance counts: one read or write of the window, one off its trip remaining, and at the last of these the fallback
policies in the active record, tripped, and a TRIP notice (R13, R14, R16). -/
def Obligations.AcceptanceCountsTripsAndStatistics : Prop :=
  ∀ (w : Fin 24) (o : Op) (s : State),
    let t := s.countAccepted w o
    let left := s.windows.tripRemaining[w]
    t = { s with windows := t.windows, notices := t.notices } ∧
    t.windows.staged = s.windows.staged ∧ t.windows.generation = s.windows.generation ∧
    t.windows.stagedDefault = s.windows.stagedDefault ∧ t.windows.activeDefault = s.windows.activeDefault ∧
    t.windows.readsMatched =
      (if o = .read then s.windows.readsMatched.set w (s.windows.readsMatched[w] + 1) else s.windows.readsMatched) ∧
    t.windows.writesMatched =
      (if o = .write then s.windows.writesMatched.set w (s.windows.writesMatched[w] + 1) else s.windows.writesMatched) ∧
    t.windows.tripRemaining = s.windows.tripRemaining.set w (left - 1) ∧
    (left ≠ 1 → t.windows.active = s.windows.active ∧ t.windows.tripped = s.windows.tripped ∧ t.notices = s.notices) ∧
    (left = 1 →
      t.windows.tripped = s.windows.tripped.set w true ∧ t.notices = s.notices.post (.trip w) ∧
      ∀ f, s.windows.active[w].trip = some f →
        t.windows.active = s.windows.active.set w
          { s.windows.active[w] with readPolicy := f.readFallback, writePolicy := f.writeFallback })

/-! ### The memory link and the host link's reset (R150 to R167) -/

/-- A grant takes the head of the issue queue under the lowest FREE memory tag: the request is issued, its entry BUSY, its host tag
FORWARDED. With an empty queue or no FREE memory tag there is no offer to accept, and the event has no effect (R156, R157; log 7). -/
def Obligations.GrantIssuesTheHead : Prop :=
  ∀ s : State, s.resetn = .high →
    (∀ e rest (m : Fin 16), s.issue.queue = e :: rest → s.issue.forward[m] = .free →
      (∀ j : Fin 16, j < m → s.issue.forward[j] ≠ .free) →
      exec .grant s = .next
        { s with
          issue :=
            { queue := rest
              forward := s.issue.forward.set m (.busy e.tag e.op e.len e.addr)
              sent := s.issue.sent ++
                [{ tag := m, op := e.op, addr := e.addr, len := e.len, mask := e.mask, data := e.data }] }
          host :=
            { s.host with
              tags := s.host.tags.set e.tag
                (s.host.tags[e.tag].map fun x => { x with place := .forwarded m }) } }) ∧
    ((s.issue.queue = [] ∨ ∀ m : Fin 16, s.issue.forward[m] ≠ .free) → exec .grant s = .next s)

/-- A memory response under a BUSY tag goes to its host tag, OK with the data where it is well-formed and OK for the request, else
FAULT with a MEMORY_FAULT; the memory tag and the host tag are FREE. Under an ORPHAN tag it is discarded, with a MEMORY_FAULT where it
is a FAULT, and under a FREE tag always with one, UNEXPECTED. No chain member is meant, whose chain would advance
(R160, R161, R163, R164). -/
def Obligations.MemoryResponsesAreReturnedOrDiscarded : Prop :=
  (∀ (m : MemResponse) (s : State), s.resetn = .high → s.issue.forward[m.tag] = .free →
    exec (.memoryResponse m) s = .next { s with notices := s.notices.post (.memoryFault m.tag .unexpected) }) ∧
  ∀ (m : MemResponse) (s : State), s.resetn = .high →
    let free : IssueUnit := { s.issue with forward := s.issue.forward.set m.tag .free }
    let ok (o : Op) (n : Byte) := m.status = 0 ∧ m.data.length = (if o = .read then n.toNat else 0)
    (∀ t o n a, s.issue.forward[m.tag] = .busy t o n a → (∀ e ∈ s.host.tags[t], e.member = false) →
      (ok o n →
        exec (.memoryResponse m) s = .next { s with issue := free, host := responded s.host t .ok m.data }) ∧
      (¬ ok o n →
        exec (.memoryResponse m) s = .next
          { s with
            issue := free
            host := responded s.host t .fault []
            notices := s.notices.post (.memoryFault m.tag (.hostTag t a)) })) ∧
    (∀ o n a, s.issue.forward[m.tag] = .orphan o n a →
      (ok o n → exec (.memoryResponse m) s = .next { s with issue := free }) ∧
      (¬ ok o n →
        exec (.memoryResponse m) s = .next
          { s with issue := free, notices := s.notices.post (.memoryFault m.tag (.orphan a)) }))

/-- A host link reset ends every request without a response: slots FREE with RESET and their unpresented HOLD notices withdrawn in
slot order, tags FREE, chains, wait lists and issue queue empty, BUSY memory tags ORPHAN, the link OPEN, and a LINK_RESET with the two
counts. Windows, timeouts, segments, bytes and the port stay (R51, R66, R104, R131, R150, R151, R167). -/
def Obligations.HostLinkResetEndsAllTraffic : Prop :=
  ∀ s : State, s.resetn = .high →
    let held := (List.finRange 16).countP fun k => s.hold.slots[k].hold.isSome
    let orphans := (List.finRange 16).countP fun m => match s.issue.forward[m] with | .busy .. => true | _ => false
    ∃ t, exec .hostLinkReset s = .next t ∧
      (∀ k : Fin 16, t.hold.slots[k] =
        if s.hold.slots[k].hold = none then s.hold.slots[k]
        else { use := s.hold.slots[k].use + 1, last := .reset, hold := none }) ∧
      t.hold.timeouts = s.hold.timeouts ∧
      t.host = { tags := Vector.replicate 32 none, stalled := none, sent := s.host.sent } ∧
      t.chains = Vector.replicate 24 [] ∧
      t.image.bytes = s.image.bytes ∧
      (∀ g : Fin 16, t.image.segments[g] = { live := s.image.segments[g].live, waiting := [] }) ∧
      t.issue.queue = [] ∧ t.issue.sent = s.issue.sent ∧
      (∀ m : Fin 16, t.issue.forward[m] =
        match s.issue.forward[m] with | .busy _ o n a => .orphan o n a | f => f) ∧
      t.notices =
        ((List.finRange 16).foldl
          (fun q k => match s.hold.slots[k].hold with | none => q | some _ => q.withdraw k) s.notices).post
          (.linkReset held orphans) ∧
      t.windows = s.windows ∧ t.port = s.port ∧ t.resetn = s.resetn ∧ t.pending = s.pending

/-- The completion of clearall: initial windows and defaults with the generation advanced, every HELD request answered REFUSED in slot
order, a chain's members together in chain order at their lowest slot, and its slot FREE with CLEARED, default timeouts, chains and
members gone, every segment EMPTY and byte 0x00, no notice and the counter kept, queued and forwarded requests untouched, and DONE with the generation. No request is withheld here
(R28, R52, R67, R105, R132, R153, R168, R184; that the freed slots set the counter back by nothing is the model's reading, log 13). -/
def Obligations.ClearallCompletesInEveryBlock : Prop :=
  ∀ (seq : Byte) (s : State), s.resetn = .high → s.port.phase = .busy (.clearall seq) → s.host.stalled = none →
    ∃ (t : State) (ks : List (Fin 16)), exec .clearallCompletion s = .next t ∧
      t.windows = { State.reset.windows with generation := s.windows.generation + 1 } ∧
      (∀ k : Fin 16, t.hold.slots[k] =
        if s.hold.slots[k].hold = none then s.hold.slots[k]
        else { use := s.hold.slots[k].use + 1, last := .cleared, hold := none }) ∧
      t.hold.timeouts = State.reset.hold.timeouts ∧
      (ks.Perm ((List.finRange 16).filter fun k => s.hold.slots[k].hold.isSome)) ∧
      (s.TrafficLawful → ks.Pairwise fun j k => Prod.Lex (· < ·) (· < ·) (answerPlace s j) (answerPlace s k)) ∧
      t.host.sent = s.host.sent ++ ks.filterMap (fun k =>
        s.hold.slots[k].hold.map fun h => { tag := h.req.tag, status := .refused, data := [] }) ∧
      t.host.stalled = none ∧
      (∀ k : Fin 16, ∀ h ∈ s.hold.slots[k].hold, t.host.tags[h.req.tag] = none) ∧
      (∀ u : Fin 32, (∀ k : Fin 16, ∀ h ∈ s.hold.slots[k].hold, h.req.tag ≠ u) →
        t.host.tags[u] = s.host.tags[u].map fun e => { e with member := false }) ∧
      t.chains = Vector.replicate 24 [] ∧ t.image = State.reset.image ∧
      t.notices = { entries := [], presented := false, counter := s.notices.counter, attn := false } ∧
      t.issue = s.issue ∧ t.port = completed s.port 0x71 seq .done [s.windows.generation + 1] ∧
      t.resetn = s.resetn ∧ t.pending = s.pending

/-! ### The laws that every step keeps -/

/-- After reset every law holds (R17, R26, R49, R54, R86 to R91, R100, R101, R108 to R110, R137, R146, R170, R185). The canonical
form of the image bytes is the model's choice (log 16). -/
def Obligations.ResetIsLawful : Prop :=
  let s := State.reset
  s.notices.Lawful ∧ s.windows.Lawful ∧ s.ServedSegmentsLive ∧ s.image.Geometry ∧ Memory.wf s.image.bytes = true ∧
  s.HoldNoticesLawful ∧ s.TrafficLawful ∧ s.StallLawful ∧ s.PortLawful ∧ s.PinLawful

/-- Every step keeps the notice queue's law: consecutive numbers up to the counter, counts from 1 to 255 and 1 for HOLD, no two
unpresented entries of one event kind, ATTN exactly while not empty (R86, R89, R91, R101). Where requests in flight are lawful, every
step keeps each unpresented HOLD notice on a slot HELD for DEFER under the use it names, one per slot; and a queue that keeps both laws
has at most 16 unpresented HOLD notices and 25 entries (R49, R100). -/
def Obligations.NoticesStayLawful : Prop :=
  (∀ s t : State, s.notices.Lawful → step s = .next t → t.notices.Lawful) ∧
  (∀ s t : State, s.notices.Lawful → s.TrafficLawful → s.HoldNoticesLawful → step s = .next t → t.HoldNoticesLawful) ∧
  ∀ s : State, s.notices.Lawful → s.HoldNoticesLawful →
    (s.notices.unpresented.filterMap Notice.named).length ≤ 16 ∧ s.notices.entries.length ≤ 25

/-- Every step keeps the window table's law, by which no two enabled active windows share a byte (R1, R26), and the law that every
enabled window that uses SERVE names a segment that is not EMPTY (R17). -/
def Obligations.WindowsStayLawful : Prop :=
  ∀ s t : State, s.windows.Lawful → s.ServedSegmentsLive → step s = .next t →
    t.windows.Lawful ∧ t.ServedSegmentsLive

/-- Every step keeps the segments' geometries in range and apart (R108, R110), and the image bytes in the canonical form that is the
model's choice: positions strictly rising and inside the store, no 0x00 listed (log 16). -/
def Obligations.ImageStaysLawful : Prop :=
  ∀ s t : State, s.image.Geometry → Memory.wf s.image.bytes = true → step s = .next t →
    t.image.Geometry ∧ Memory.wf t.image.bytes = true

/-- Every step keeps the holds lawful: a deadline for DEFER and IMAGE_WAIT and none for ORDER, at most three renewals, timeout
entries from 1 to 65535 (R29, R37, R42). -/
def Obligations.HoldsStayLawful : Prop :=
  ∀ s t : State, s.hold.Lawful → step s = .next t → t.hold.Lawful

/-- Every step keeps every request in flight in exactly the places that name it: host tags, issue queue, forward table, slots, order
chains with only their heads in progress, and wait lists (R31, R36, R54, R55, R109, R137). -/
def Obligations.TrafficStaysLawful : Prop :=
  ∀ s t : State, s.TrafficLawful → step s = .next t → t.TrafficLawful

/-- Every step keeps the link STALLED only with every slot HELD, on a well-formed request whose tag is FREE (R146 to R149). -/
def Obligations.StallsStayLawful : Prop :=
  ∀ s t : State, s.StallLawful → step s = .next t → t.StallLawful

/-- Every step keeps the port's law, and the power-on state while RESETn is low (R115, R170, R179, R185). -/
def Obligations.PortAndPinStayLawful : Prop :=
  ∀ s t : State, s.PortLawful → s.PinLawful → step s = .next t → t.PortLawful ∧ t.PinLawful
end

