-- ==== Sys2Proof/Laws/State.lean ====
section
/-! SUPPORT. What each named update of State writes and what it leaves: one equation per field. -/

namespace Sys2Proof.Machine

variable (s : State)

/-! ### setWindows -/

@[simp] theorem State.setWindows_windows (x : WindowTable) : (s.setWindows x).windows = x := rfl
@[simp] theorem State.setWindows_hold (x : WindowTable) : (s.setWindows x).hold = s.hold := rfl
@[simp] theorem State.setWindows_chains (x : WindowTable) : (s.setWindows x).chains = s.chains := rfl
@[simp] theorem State.setWindows_notices (x : WindowTable) : (s.setWindows x).notices = s.notices := rfl
@[simp] theorem State.setWindows_image (x : WindowTable) : (s.setWindows x).image = s.image := rfl
@[simp] theorem State.setWindows_host (x : WindowTable) : (s.setWindows x).host = s.host := rfl
@[simp] theorem State.setWindows_issue (x : WindowTable) : (s.setWindows x).issue = s.issue := rfl
@[simp] theorem State.setWindows_port (x : WindowTable) : (s.setWindows x).port = s.port := rfl
@[simp] theorem State.setWindows_resetn (x : WindowTable) : (s.setWindows x).resetn = s.resetn := rfl
@[simp] theorem State.setWindows_pending (x : WindowTable) : (s.setWindows x).pending = s.pending := rfl

/-! ### setHold -/

@[simp] theorem State.setHold_windows (x : HoldTable) : (s.setHold x).windows = s.windows := rfl
@[simp] theorem State.setHold_hold (x : HoldTable) : (s.setHold x).hold = x := rfl
@[simp] theorem State.setHold_chains (x : HoldTable) : (s.setHold x).chains = s.chains := rfl
@[simp] theorem State.setHold_notices (x : HoldTable) : (s.setHold x).notices = s.notices := rfl
@[simp] theorem State.setHold_image (x : HoldTable) : (s.setHold x).image = s.image := rfl
@[simp] theorem State.setHold_host (x : HoldTable) : (s.setHold x).host = s.host := rfl
@[simp] theorem State.setHold_issue (x : HoldTable) : (s.setHold x).issue = s.issue := rfl
@[simp] theorem State.setHold_port (x : HoldTable) : (s.setHold x).port = s.port := rfl
@[simp] theorem State.setHold_resetn (x : HoldTable) : (s.setHold x).resetn = s.resetn := rfl
@[simp] theorem State.setHold_pending (x : HoldTable) : (s.setHold x).pending = s.pending := rfl

/-! ### setChains -/

@[simp] theorem State.setChains_windows (x : Vector (List (Fin 32)) 24) : (s.setChains x).windows = s.windows := rfl
@[simp] theorem State.setChains_hold (x : Vector (List (Fin 32)) 24) : (s.setChains x).hold = s.hold := rfl
@[simp] theorem State.setChains_chains (x : Vector (List (Fin 32)) 24) : (s.setChains x).chains = x := rfl
@[simp] theorem State.setChains_notices (x : Vector (List (Fin 32)) 24) : (s.setChains x).notices = s.notices := rfl
@[simp] theorem State.setChains_image (x : Vector (List (Fin 32)) 24) : (s.setChains x).image = s.image := rfl
@[simp] theorem State.setChains_host (x : Vector (List (Fin 32)) 24) : (s.setChains x).host = s.host := rfl
@[simp] theorem State.setChains_issue (x : Vector (List (Fin 32)) 24) : (s.setChains x).issue = s.issue := rfl
@[simp] theorem State.setChains_port (x : Vector (List (Fin 32)) 24) : (s.setChains x).port = s.port := rfl
@[simp] theorem State.setChains_resetn (x : Vector (List (Fin 32)) 24) : (s.setChains x).resetn = s.resetn := rfl
@[simp] theorem State.setChains_pending (x : Vector (List (Fin 32)) 24) : (s.setChains x).pending = s.pending := rfl

/-! ### setNotices -/

@[simp] theorem State.setNotices_windows (x : NoticeQueue) : (s.setNotices x).windows = s.windows := rfl
@[simp] theorem State.setNotices_hold (x : NoticeQueue) : (s.setNotices x).hold = s.hold := rfl
@[simp] theorem State.setNotices_chains (x : NoticeQueue) : (s.setNotices x).chains = s.chains := rfl
@[simp] theorem State.setNotices_notices (x : NoticeQueue) : (s.setNotices x).notices = x := rfl
@[simp] theorem State.setNotices_image (x : NoticeQueue) : (s.setNotices x).image = s.image := rfl
@[simp] theorem State.setNotices_host (x : NoticeQueue) : (s.setNotices x).host = s.host := rfl
@[simp] theorem State.setNotices_issue (x : NoticeQueue) : (s.setNotices x).issue = s.issue := rfl
@[simp] theorem State.setNotices_port (x : NoticeQueue) : (s.setNotices x).port = s.port := rfl
@[simp] theorem State.setNotices_resetn (x : NoticeQueue) : (s.setNotices x).resetn = s.resetn := rfl
@[simp] theorem State.setNotices_pending (x : NoticeQueue) : (s.setNotices x).pending = s.pending := rfl

/-! ### setImage -/

@[simp] theorem State.setImage_windows (x : ImageStore) : (s.setImage x).windows = s.windows := rfl
@[simp] theorem State.setImage_hold (x : ImageStore) : (s.setImage x).hold = s.hold := rfl
@[simp] theorem State.setImage_chains (x : ImageStore) : (s.setImage x).chains = s.chains := rfl
@[simp] theorem State.setImage_notices (x : ImageStore) : (s.setImage x).notices = s.notices := rfl
@[simp] theorem State.setImage_image (x : ImageStore) : (s.setImage x).image = x := rfl
@[simp] theorem State.setImage_host (x : ImageStore) : (s.setImage x).host = s.host := rfl
@[simp] theorem State.setImage_issue (x : ImageStore) : (s.setImage x).issue = s.issue := rfl
@[simp] theorem State.setImage_port (x : ImageStore) : (s.setImage x).port = s.port := rfl
@[simp] theorem State.setImage_resetn (x : ImageStore) : (s.setImage x).resetn = s.resetn := rfl
@[simp] theorem State.setImage_pending (x : ImageStore) : (s.setImage x).pending = s.pending := rfl

/-! ### setHost -/

@[simp] theorem State.setHost_windows (x : HostLink) : (s.setHost x).windows = s.windows := rfl
@[simp] theorem State.setHost_hold (x : HostLink) : (s.setHost x).hold = s.hold := rfl
@[simp] theorem State.setHost_chains (x : HostLink) : (s.setHost x).chains = s.chains := rfl
@[simp] theorem State.setHost_notices (x : HostLink) : (s.setHost x).notices = s.notices := rfl
@[simp] theorem State.setHost_image (x : HostLink) : (s.setHost x).image = s.image := rfl
@[simp] theorem State.setHost_host (x : HostLink) : (s.setHost x).host = x := rfl
@[simp] theorem State.setHost_issue (x : HostLink) : (s.setHost x).issue = s.issue := rfl
@[simp] theorem State.setHost_port (x : HostLink) : (s.setHost x).port = s.port := rfl
@[simp] theorem State.setHost_resetn (x : HostLink) : (s.setHost x).resetn = s.resetn := rfl
@[simp] theorem State.setHost_pending (x : HostLink) : (s.setHost x).pending = s.pending := rfl

/-! ### setIssue -/

@[simp] theorem State.setIssue_windows (x : IssueUnit) : (s.setIssue x).windows = s.windows := rfl
@[simp] theorem State.setIssue_hold (x : IssueUnit) : (s.setIssue x).hold = s.hold := rfl
@[simp] theorem State.setIssue_chains (x : IssueUnit) : (s.setIssue x).chains = s.chains := rfl
@[simp] theorem State.setIssue_notices (x : IssueUnit) : (s.setIssue x).notices = s.notices := rfl
@[simp] theorem State.setIssue_image (x : IssueUnit) : (s.setIssue x).image = s.image := rfl
@[simp] theorem State.setIssue_host (x : IssueUnit) : (s.setIssue x).host = s.host := rfl
@[simp] theorem State.setIssue_issue (x : IssueUnit) : (s.setIssue x).issue = x := rfl
@[simp] theorem State.setIssue_port (x : IssueUnit) : (s.setIssue x).port = s.port := rfl
@[simp] theorem State.setIssue_resetn (x : IssueUnit) : (s.setIssue x).resetn = s.resetn := rfl
@[simp] theorem State.setIssue_pending (x : IssueUnit) : (s.setIssue x).pending = s.pending := rfl

/-! ### setPort -/

@[simp] theorem State.setPort_windows (x : ServicePort) : (s.setPort x).windows = s.windows := rfl
@[simp] theorem State.setPort_hold (x : ServicePort) : (s.setPort x).hold = s.hold := rfl
@[simp] theorem State.setPort_chains (x : ServicePort) : (s.setPort x).chains = s.chains := rfl
@[simp] theorem State.setPort_notices (x : ServicePort) : (s.setPort x).notices = s.notices := rfl
@[simp] theorem State.setPort_image (x : ServicePort) : (s.setPort x).image = s.image := rfl
@[simp] theorem State.setPort_host (x : ServicePort) : (s.setPort x).host = s.host := rfl
@[simp] theorem State.setPort_issue (x : ServicePort) : (s.setPort x).issue = s.issue := rfl
@[simp] theorem State.setPort_port (x : ServicePort) : (s.setPort x).port = x := rfl
@[simp] theorem State.setPort_resetn (x : ServicePort) : (s.setPort x).resetn = s.resetn := rfl
@[simp] theorem State.setPort_pending (x : ServicePort) : (s.setPort x).pending = s.pending := rfl

/-! ### setResetn -/

@[simp] theorem State.setResetn_windows (x : PinLevel) : (s.setResetn x).windows = s.windows := rfl
@[simp] theorem State.setResetn_hold (x : PinLevel) : (s.setResetn x).hold = s.hold := rfl
@[simp] theorem State.setResetn_chains (x : PinLevel) : (s.setResetn x).chains = s.chains := rfl
@[simp] theorem State.setResetn_notices (x : PinLevel) : (s.setResetn x).notices = s.notices := rfl
@[simp] theorem State.setResetn_image (x : PinLevel) : (s.setResetn x).image = s.image := rfl
@[simp] theorem State.setResetn_host (x : PinLevel) : (s.setResetn x).host = s.host := rfl
@[simp] theorem State.setResetn_issue (x : PinLevel) : (s.setResetn x).issue = s.issue := rfl
@[simp] theorem State.setResetn_port (x : PinLevel) : (s.setResetn x).port = s.port := rfl
@[simp] theorem State.setResetn_resetn (x : PinLevel) : (s.setResetn x).resetn = x := rfl
@[simp] theorem State.setResetn_pending (x : PinLevel) : (s.setResetn x).pending = s.pending := rfl

/-! ### setPending -/

@[simp] theorem State.setPending_windows (x : List Instr) : (s.setPending x).windows = s.windows := rfl
@[simp] theorem State.setPending_hold (x : List Instr) : (s.setPending x).hold = s.hold := rfl
@[simp] theorem State.setPending_chains (x : List Instr) : (s.setPending x).chains = s.chains := rfl
@[simp] theorem State.setPending_notices (x : List Instr) : (s.setPending x).notices = s.notices := rfl
@[simp] theorem State.setPending_image (x : List Instr) : (s.setPending x).image = s.image := rfl
@[simp] theorem State.setPending_host (x : List Instr) : (s.setPending x).host = s.host := rfl
@[simp] theorem State.setPending_issue (x : List Instr) : (s.setPending x).issue = s.issue := rfl
@[simp] theorem State.setPending_port (x : List Instr) : (s.setPending x).port = s.port := rfl
@[simp] theorem State.setPending_resetn (x : List Instr) : (s.setPending x).resetn = s.resetn := rfl
@[simp] theorem State.setPending_pending (x : List Instr) : (s.setPending x).pending = x := rfl

end Sys2Proof.Machine
end

