-- ==== Sys2Proof/Laws/Port.lean ====
section
/-! SUPPORT. What the service port does with a frame, once for every command: which frames reach their command, and what an
immediate command leaves (R169, R174 to R179). -/

namespace Sys2Proof.Machine

open Claims

/-- An event of a part that RESETn does not hold in reset. -/
theorem running_high {s : State} (h : s.resetn = .high) (f : State → State) : running s f = .next (f s) := by
  simp [running, h]

/-- An event of a part in reset is without effect. -/
theorem running_low {s : State} (h : s.resetn = .low) (f : State → State) : running s f = .next s := by
  simp [running, h]

/-- The port as a command finds it when its frame of n bytes is handled. -/
def handling (p : ServicePort) (n : Nat) : ServicePort :=
  { phase := .idle
    dropped := p.dropped
    overwritten := p.overwritten || holdsResponse p
    miso := p.miso ++ [List.replicate n 0] }

/-- A frame taken while the port is not BUSY is handled (R173, R175, R176). -/
theorem takeFrame_accepts {s : State} (h : Accepts s) (n : Nat) (f : State → State) :
    s.takeFrame n f = f (s.setPort (handling s.port n)) := by
  obtain ⟨-, hb⟩ := h
  rcases hp : s.port with ⟨ph, d, o, m⟩
  cases ph with
  | busy c => exact absurd (by rw [hp]) (hb c)
  | idle => simp [State.takeFrame, State.shiftOut, State.setPort, handling, holdsResponse, hp]
  | ready r => simp [State.takeFrame, State.shiftOut, State.setPort, handling, holdsResponse, hp]

/-- A frame taken while the port is BUSY is dropped (R174). -/
theorem takeFrame_busy {s : State} {c : Executing} (h : s.port.phase = .busy c) (n : Nat) (f : State → State) :
    s.takeFrame n f =
      s.setPort { s.port with dropped := true, miso := s.port.miso ++ [List.replicate n 0] } := by
  simp [State.takeFrame, State.shiftOut, State.setPort, h]

/-- A frame taken while the port is READY is handled as from IDLE with OVERWRITTEN set (R175). -/
theorem takeFrame_ready {s : State} {r : Response} (h : s.port.phase = .ready r) (n : Nat) (f : State → State) :
    s.takeFrame n f = (s.setPort { s.port with phase := .idle, overwritten := true }).takeFrame n f := by
  simp [State.takeFrame, State.shiftOut, State.setPort, h]

/-- A response made ready by a frame that is handled is the port's reply to it. -/
@[simp] theorem makeReady_handling (s : State) (p : ServicePort) (n : Nat) (code seq : Byte) (r : Result) (d : List Byte) :
    (s.setPort (handling p n)).makeReady code seq r d = s.setPort (replied p n code seq r d) := rfl

/-- An immediate command whose answer leaves the state t, with the port as it was. -/
theorem immediately_eq {s : State} {n : Nat} {p : ServicePort} (c : Command) (q : Byte) (body : State → Answer) {r : Result}
    {d : List Byte} {t : State} (h : body (s.setPort (handling p n)) = ⟨r, d, t.setPort (handling p n)⟩) :
    (s.setPort (handling p n)).immediately c q body = t.setPort (replied p n (commandCode c) q r d) := by
  simp [State.immediately, h]

/-- An immediate command of a frame that the port handles, from what its body answers. -/
theorem immediate_next {s : State} (h : Accepts s) (n : Nat) (c : Command) (q : Byte) (body : State → Answer) {r : Result}
    {d : List Byte} {t : State} (hb : body (s.setPort (handling s.port n)) = ⟨r, d, t.setPort (handling s.port n)⟩) :
    running s (fun s => s.takeFrame n fun s => s.immediately c q body) =
      .next (t.setPort (replied s.port n (commandCode c) q r d)) := by
  rw [running_high h.1, takeFrame_accepts h, immediately_eq c q body hb]

end Sys2Proof.Machine
end

