-- ==== Sys2Proof/Laws/Exec.lean ====
section
/-! SUPPORT. exec of each command in one equation, and of each command frame the port handles: its body decides the answer and the
state, and the port replies (R176, R179). -/

namespace Sys2Proof.Machine

open Claims

variable (s : State) (q : Byte) (p : List Byte)

/-! ### Events -/

theorem exec_hostOffer (r : HostRequest) : exec (.hostOffer r) s = running s (offer r) := rfl
theorem exec_grant : exec .grant s = running s grantOffer := rfl
theorem exec_memoryResponse (m : MemResponse) : exec (.memoryResponse m) s = running s (memoryAnswer m) := rfl
theorem exec_expiry (k : Fin 16) : exec (.expiry k) s = running s (runOut k) := rfl
theorem exec_hostLinkReset : exec .hostLinkReset s = running s resetLink := rfl
theorem exec_resetn (l : PinLevel) : exec (.resetn l) s = .next (movePin l s) := rfl
theorem exec_commitCompletion : exec .commitCompletion s = running s completeCommit := rfl
theorem exec_scheckCompletion : exec .scheckCompletion s = running s completeScheck := rfl
theorem exec_clearallCompletion : exec .clearallCompletion s = running s completeClearall := rfl
theorem exec_poll (rest : List Byte) : exec (.poll rest) s = running s (takePoll rest) := rfl
theorem exec_unexecutedFrame (b : List Byte) (cut : Bool) : exec (.unexecutedFrame b cut) s = running s (takeRaw b cut) := rfl
theorem exec_shortFrame (w : ShortCause) : exec (.shortFrame w) s = .next s := rfl

/-! ### Command frames -/

theorem exec_commit : exec (.commit q p) s = running s fun s => s.takeFrame (frameLength p) fun s => takeCommit q p s := rfl
theorem exec_scheck : exec (.scheck q p) s = running s fun s => s.takeFrame (frameLength p) fun s => takeScheck q p s := rfl
theorem exec_clearall :
    exec (.clearall q p) s = running s fun s => s.takeFrame (frameLength p) fun s => takeClearall q p s := rfl
theorem exec_wset :
    exec (.wset q p) s = running s fun s => s.takeFrame (frameLength p) fun s => s.immediately .wset q (wsetBody p) := rfl
theorem exec_wclear :
    exec (.wclear q p) s = running s fun s => s.takeFrame (frameLength p) fun s => s.immediately .wclear q (wclearBody p) := rfl
theorem exec_wdefault :
    exec (.wdefault q p) s = running s fun s => s.takeFrame (frameLength p) fun s => s.immediately .wdefault q (wdefaultBody p) := rfl
theorem exec_wread :
    exec (.wread q p) s = running s fun s => s.takeFrame (frameLength p) fun s => s.immediately .wread q (wreadBody p) := rfl
theorem exec_wstats :
    exec (.wstats q p) s = running s fun s => s.takeFrame (frameLength p) fun s => s.immediately .wstats q (wstatsBody p) := rfl
theorem exec_wzero :
    exec (.wzero q p) s = running s fun s => s.takeFrame (frameLength p) fun s => s.immediately .wzero q (wzeroBody p) := rfl
theorem exec_tset :
    exec (.tset q p) s = running s fun s => s.takeFrame (frameLength p) fun s => s.immediately .tset q (tsetBody p) := rfl
theorem exec_hread :
    exec (.hread q p) s = running s fun s => s.takeFrame (frameLength p) fun s => s.immediately .hread q (hreadBody p) := rfl
theorem exec_hdata :
    exec (.hdata q p) s = running s fun s => s.takeFrame (frameLength p) fun s => s.immediately .hdata q (hdataBody p) := rfl
theorem exec_hdone :
    exec (.hdone q p) s = running s fun s => s.takeFrame (frameLength p) fun s => s.immediately .hdone q (hdoneBody p) := rfl
theorem exec_hfwd :
    exec (.hfwd q p) s = running s fun s => s.takeFrame (frameLength p) fun s => s.immediately .hfwd q (hfwdBody p) := rfl
theorem exec_hrefuse :
    exec (.hrefuse q p) s = running s fun s => s.takeFrame (frameLength p) fun s => s.immediately .hrefuse q (hrefuseBody p) := rfl
theorem exec_hrenew :
    exec (.hrenew q p) s = running s fun s => s.takeFrame (frameLength p) fun s => s.immediately .hrenew q (hrenewBody p) := rfl
theorem exec_nfetch :
    exec (.nfetch q p) s = running s fun s => s.takeFrame (frameLength p) fun s => s.immediately .nfetch q (nfetchBody p) := rfl
theorem exec_nack :
    exec (.nack q p) s = running s fun s => s.takeFrame (frameLength p) fun s => s.immediately .nack q (nackBody p) := rfl
theorem exec_sload :
    exec (.sload q p) s = running s fun s => s.takeFrame (frameLength p) fun s => s.immediately .sload q (sloadBody p) := rfl
theorem exec_sdata :
    exec (.sdata q p) s = running s fun s => s.takeFrame (frameLength p) fun s => s.immediately .sdata q (sdataBody p) := rfl
theorem exec_sabort :
    exec (.sabort q p) s = running s fun s => s.takeFrame (frameLength p) fun s => s.immediately .sabort q (sabortBody p) := rfl
theorem exec_sfree :
    exec (.sfree q p) s = running s fun s => s.takeFrame (frameLength p) fun s => s.immediately .sfree q (sfreeBody p) := rfl
theorem exec_sread :
    exec (.sread q p) s = running s fun s => s.takeFrame (frameLength p) fun s => s.immediately .sread q (sreadBody p) := rfl
theorem exec_sinfo :
    exec (.sinfo q p) s = running s fun s => s.takeFrame (frameLength p) fun s => s.immediately .sinfo q (sinfoBody p) := rfl
theorem exec_status :
    exec (.status q p) s = running s fun s => s.takeFrame (frameLength p) fun s => s.immediately .status q (statusBody p) := rfl

/-- Every command frame with a known code is handled as that command. -/
theorem exec_instrOf (c : Command) :
    exec (instrOf c q p) s = running s fun s => s.takeFrame (frameLength p) fun s => takeCommand c q p s := by
  cases c <;> rfl

/-- What a command term is, it is as its name, sequence byte and payload. -/
theorem asCommand_eq {i : Instr} {c : Command} {q : Byte} {p : List Byte} (h : i.asCommand = some (c, q, p)) :
    i = instrOf c q p := by
  cases i <;> simp only [Instr.asCommand, Option.some.injEq, Prod.mk.injEq, reduceCtorEq] at h <;>
    (obtain ⟨rfl, rfl, rfl⟩ := h; rfl)

@[simp] theorem asCommand_instrOf (c : Command) : (instrOf c q p).asCommand = some (c, q, p) := by
  cases c <;> rfl

end Sys2Proof.Machine
end

