-- ==== Sys2Proof/Laws/Memory.lean ====
section
/-! SUPPORT. The image bytes: reads after writes, and the canonical form that every memory operation keeps (R107, log 16). -/

namespace Sys2Proof.Machine

/-! ### One byte -/

/-- A list with a first entry is canonical when its rest is, the rest lies behind it, and the entry is a listed one. -/
theorem memory_wf_cons (c : Host.Cell) (m : List Host.Cell) :
    Memory.wf (c :: m) = true ↔
      (∀ d ∈ m, c.1 < d.1) ∧ c.1 < Config.storeSize ∧ c.2 ≠ 0 ∧ Memory.wf m = true := by
  simp only [Memory.wf, List.pairwise_cons, List.all_cons, Bool.and_eq_true, decide_eq_true_eq]
  tauto

theorem memory_wf_nil : Memory.wf [] = true := by decide

/-- A position before every listed one reads 0x00. -/
theorem byteAt_of_before {m : List Host.Cell} {a : Nat} (h : ∀ d ∈ m, a < d.1) : byteAt m a = 0 := by
  induction m with
  | nil => rfl
  | cons c m ih =>
    have hc := h c (by simp)
    have hne : a ≠ c.1 := by omega
    simp only [byteAt, if_neg hne]
    exact ih fun d hd => h d (by simp [hd])

/-- storeCell lists the position it writes or one listed before. -/
theorem mem_storeCell {m : List Host.Cell} {a : Nat} {v : Byte} {d : Host.Cell} (h : d ∈ storeCell m a v) :
    d ∈ m ∨ (d = (a, v) ∧ v ≠ 0) := by
  induction m with
  | nil =>
    simp only [storeCell] at h
    split at h
    · simp at h
    · exact .inr ⟨by simpa using h, by assumption⟩
  | cons c m ih =>
    simp only [storeCell] at h
    split at h
    · split at h
      · exact .inl h
      · rcases List.mem_cons.1 h with h | h
        · exact .inr ⟨h, by assumption⟩
        · exact .inl h
    · split at h
      · split at h
        · exact .inl (by simp [h])
        · rcases List.mem_cons.1 h with h | h
          · exact .inr ⟨h, by assumption⟩
          · exact .inl (by simp [h])
      · rcases List.mem_cons.1 h with h | h
        · exact .inl (by simp [h])
        · rcases ih h with h | h
          · exact .inl (by simp [h])
          · exact .inr h

/-- Storing a byte inside the store keeps the canonical form. -/
theorem storeCell_wf {m : List Host.Cell} {a : Nat} {v : Byte} (hm : Memory.wf m = true) (ha : a < Config.storeSize) :
    Memory.wf (storeCell m a v) = true := by
  induction m with
  | nil =>
    simp only [storeCell]
    split
    · exact memory_wf_nil
    · exact (memory_wf_cons _ _).2 ⟨by simp, ha, by assumption, memory_wf_nil⟩
  | cons c m ih =>
    obtain ⟨hlt, hc, hv, hw⟩ := (memory_wf_cons _ _).1 hm
    simp only [storeCell]
    split
    · split
      · exact hm
      · refine (memory_wf_cons _ _).2 ⟨?_, ha, by assumption, hm⟩
        intro d hd
        rcases List.mem_cons.1 hd with rfl | hd
        · assumption
        · have := hlt d hd
          simp only at *
          omega
    · split
      · split
        · exact hw
        · refine (memory_wf_cons _ _).2 ⟨?_, ha, by assumption, hw⟩
          intro d hd
          have := hlt d hd
          simp only at *
          omega
      · refine (memory_wf_cons _ _).2 ⟨?_, hc, hv, ih hw⟩
        intro d hd
        rcases mem_storeCell hd with hd | ⟨rfl, -⟩
        · exact hlt d hd
        · simp only at *
          omega

/-- A byte read after a byte is stored: the value at its position, and what was there before at any other. -/
theorem byteAt_storeCell {m : List Host.Cell} (hm : Memory.wf m = true) (a b : Nat) (v : Byte) :
    byteAt (storeCell m a v) b = if b = a then v else byteAt m b := by
  induction m with
  | nil =>
    simp only [storeCell]
    split
    · simp_all [byteAt]
    · simp [byteAt]
  | cons c m ih =>
    obtain ⟨hlt, -, -, hw⟩ := (memory_wf_cons _ _).1 hm
    have before : ∀ x, x ≤ c.1 → byteAt m x = 0 := fun x hx =>
      byteAt_of_before fun d hd => Nat.lt_of_le_of_lt hx (hlt d hd)
    simp only [storeCell]
    split
    · rename_i hac
      split
      · rename_i hv
        split
        · rename_i hb
          subst hb
          rw [hv]
          have hne : b ≠ c.1 := by omega
          simp [byteAt, hne, before b (by omega)]
        · rfl
      · simp [byteAt]
    · split
      · rename_i hac
        split
        · rename_i hv
          split
          · rename_i hb
            rw [hb, hv, hac]
            exact before _ (Nat.le_refl _)
          · rename_i hb
            have hne : b ≠ c.1 := by omega
            simp [byteAt, hne]
        · split
          · rename_i hb
            simp [byteAt, hb]
          · rename_i hb
            have hne : b ≠ c.1 := by omega
            simp [byteAt, hb, hne]
      · rename_i hac hne
        simp only [byteAt]
        split
        · rename_i hb
          have : b ≠ a := by omega
          simp [this]
        · exact ih hw

theorem writeByte_wf {m : List Host.Cell} (hm : Memory.wf m = true) (a : Nat) (v : Byte) :
    Memory.wf (writeByte m a v) = true := by
  unfold writeByte
  split
  · exact storeCell_wf hm (by assumption)
  · exact hm

/-- A byte read after writeByte, at a position inside the store. -/
theorem byteAt_writeByte {m : List Host.Cell} (hm : Memory.wf m = true) {a : Nat} (ha : a < Config.storeSize) (b : Nat)
    (v : Byte) : byteAt (writeByte m a v) b = if b = a then v else byteAt m b := by
  rw [writeByte, if_pos ha, byteAt_storeCell hm]

/-! ### Ranges of bytes -/

theorem writeBytes_wf {m : List Host.Cell} (hm : Memory.wf m = true) (a : Nat) (bs : List Byte) :
    Memory.wf (writeBytes m a bs) = true := by
  induction bs generalizing m a with
  | nil => exact hm
  | cons b bs ih => exact ih (writeByte_wf hm a b) (a + 1)

/-- A byte read after a range inside the store is written: the range's byte inside it, and what was there before outside. -/
theorem byteAt_writeBytes {m : List Host.Cell} (hm : Memory.wf m = true) {a : Nat} (bs : List Byte)
    (ha : a + bs.length ≤ Config.storeSize) (b : Nat) :
    byteAt (writeBytes m a bs) b = if a ≤ b ∧ b < a + bs.length then bs.getD (b - a) 0 else byteAt m b := by
  induction bs generalizing m a with
  | nil =>
    have : ¬ (a ≤ b ∧ b < a + ([] : List Byte).length) := by simp
    rw [if_neg this]
    rfl
  | cons v bs ih =>
    simp only [List.length_cons] at ha ⊢
    rw [writeBytes, ih (writeByte_wf hm a v) (by omega), byteAt_writeByte hm (by omega)]
    by_cases h1 : b = a
    · subst h1
      simp
    · by_cases h2 : a ≤ b ∧ b < a + (bs.length + 1)
      · have h3 : a + 1 ≤ b ∧ b < a + 1 + bs.length := by omega
        have h4 : b - a = (b - (a + 1)) + 1 := by omega
        rw [if_pos h2, if_pos h3, h4, List.getD_cons_succ]
      · have h3 : ¬ (a + 1 ≤ b ∧ b < a + 1 + bs.length) := by omega
        rw [if_neg h2, if_neg h3, if_neg h1]

theorem writeEnabled_wf {m : List Host.Cell} (hm : Memory.wf m = true) (a : Nat) (bs : List Byte) (fs : List Bool) :
    Memory.wf (writeEnabled m a bs fs) = true := by
  induction bs generalizing m a fs with
  | nil => exact hm
  | cons b bs ih =>
    cases fs with
    | nil => exact hm
    | cons f fs =>
      refine ih ?_ (a + 1) fs
      split
      · exact writeByte_wf hm a b
      · exact hm

/-- A byte read after a masked range inside the store is written: the range's byte where its flag is set, and what was there before
everywhere else. -/
theorem byteAt_writeEnabled {m : List Host.Cell} (hm : Memory.wf m = true) {a : Nat} (bs : List Byte) (fs : List Bool)
    (hl : bs.length = fs.length) (ha : a + bs.length ≤ Config.storeSize) (b : Nat) :
    byteAt (writeEnabled m a bs fs) b =
      if a ≤ b ∧ b < a + bs.length ∧ fs.getD (b - a) false = true then bs.getD (b - a) 0 else byteAt m b := by
  induction bs generalizing m a fs with
  | nil =>
    have : ¬ (a ≤ b ∧ b < a + ([] : List Byte).length ∧ fs.getD (b - a) false = true) := by simp; omega
    rw [if_neg this]
    cases fs <;> rfl
  | cons v bs ih =>
    cases fs with
    | nil => simp at hl
    | cons f fs =>
      simp only [List.length_cons] at ha hl ⊢
      have hw : Memory.wf (if f then writeByte m a v else m) = true := by
        split
        · exact writeByte_wf hm a v
        · exact hm
      rw [writeEnabled, ih hw fs (by omega) (by omega)]
      by_cases h1 : b = a
      · subst h1
        have h2 : ¬ (b + 1 ≤ b ∧ b < b + 1 + bs.length ∧ fs.getD (b - (b + 1)) false = true) := by omega
        rw [if_neg h2]
        cases f
        · simp
        · simp [byteAt_writeByte hm (show b < Config.storeSize by omega)]
      · have hb : byteAt (if f then writeByte m a v else m) b = byteAt m b := by
          split
          · simp [byteAt_writeByte hm (show a < Config.storeSize by omega), h1]
          · rfl
        rw [hb]
        by_cases h2 : a + 1 ≤ b
        · have h4 : b - a = (b - (a + 1)) + 1 := by omega
          have h5 : (a ≤ b ∧ b < a + (bs.length + 1)) ↔ (a + 1 ≤ b ∧ b < a + 1 + bs.length) := by omega
          simp only [h4, List.getD_cons_succ, ← and_assoc, h5]
        · have h3 : ¬ (a + 1 ≤ b ∧ b < a + 1 + bs.length ∧ fs.getD (b - (a + 1)) false = true) := by omega
          have h4 : ¬ (a ≤ b ∧ b < a + (bs.length + 1) ∧ (f :: fs).getD (b - a) false = true) := by omega
          rw [if_neg h3, if_neg h4]

@[simp] theorem readBytes_length (m : List Host.Cell) (a n : Nat) : (readBytes m a n).length = n := by
  simp [readBytes]

/-- SERVE keeps the canonical form. -/
theorem serveBytes_wf {m : ImageStore} (hm : Memory.wf m.bytes = true) (a : Nat) (r : HostRequest) :
    Memory.wf (m.serveBytes a r) = true := by
  unfold ImageStore.serveBytes
  split
  · exact hm
  · exact writeEnabled_wf hm _ _ _

end Sys2Proof.Machine
end

