-- ==== Sys2Proof/Laws/Tables.lean ====
section
/-! SUPPORT. The operations on tables, entry by entry, and what each search of a table finds. -/

namespace Sys2Proof.Machine

/-- An entry of a mapped table. -/
@[simp] theorem tableMap_getElem {α β : Type} {n : Nat} (f : Fin n → α → β) (v : Vector α n) (i : Nat) (h : i < n) :
    (tableMap f v)[i] = f ⟨i, h⟩ v[i] := by
  simp [tableMap]

theorem tableMap_get {α β : Type} {n : Nat} (f : Fin n → α → β) (v : Vector α n) (i : Fin n) :
    (tableMap f v)[i] = f i v[i] :=
  tableMap_getElem f v i.val i.isLt

/-- An entry of a table with one entry replaced. -/
theorem table_set_get {α : Type} {n : Nat} (v : Vector α n) (i j : Fin n) (x : α) :
    (v.set i x)[j] = if i = j then x else v[j] := by
  simp only [Fin.getElem_fin, Vector.getElem_set, Fin.ext_iff]

theorem table_set_get_self {α : Type} {n : Nat} (v : Vector α n) (i : Fin n) (x : α) : (v.set i x)[i] = x := by
  rw [table_set_get, if_pos rfl]

theorem table_set_get_ne {α : Type} {n : Nat} (v : Vector α n) {i j : Fin n} (x : α) (h : i ≠ j) :
    (v.set i x)[j] = v[j] := by
  rw [table_set_get, if_neg h]

/-- Two tables are equal when they are entry by entry. -/
theorem table_ext {α : Type} {n : Nat} {v w : Vector α n} (h : ∀ i : Fin n, v[i] = w[i]) : v = w := by
  ext i hi
  exact h ⟨i, hi⟩

/-- Replacing an entry by itself changes nothing. -/
theorem table_set_self {α : Type} {n : Nat} (v : Vector α n) (i : Fin n) : v.set i v[i] = v := by
  apply table_ext
  intro j
  rw [table_set_get]
  split
  · rename_i h
    rw [h]
  · rfl

theorem table_set_set {α : Type} {n : Nat} (v : Vector α n) (i : Fin n) (x y : α) : (v.set i x).set i y = v.set i y := by
  apply table_ext
  intro j
  simp only [table_set_get]
  split <;> rfl

theorem table_replicate_get {α : Type} {n : Nat} (x : α) (i : Fin n) : (Vector.replicate n x)[i] = x := by
  simp

/-- The first index of a range that passes. -/
theorem findFin_some {n : Nat} {p : Fin n → Bool} {i : Fin n} :
    (List.finRange n).find? p = some i ↔ p i = true ∧ ∀ j, j < i → p j = false := by
  rw [List.find?_eq_some_iff_getElem]
  constructor
  · rintro ⟨hp, k, hk, he, hlt⟩
    refine ⟨hp, fun j hj => ?_⟩
    have hk' : k = i.val := by simpa [Fin.ext_iff] using he
    have := hlt j.val (by omega)
    simpa using this
  · rintro ⟨hp, hlt⟩
    refine ⟨hp, i.val, by simp, by simp, fun j hj => ?_⟩
    have := hlt ⟨j, by omega⟩ hj
    simpa using this

theorem findFin_none {n : Nat} {p : Fin n → Bool} : (List.finRange n).find? p = none ↔ ∀ i, p i = false := by
  simp [List.find?_eq_none]

/-- lowest finds an index exactly where it passes and none below it does. -/
theorem lowest_eq_some {α : Type} {n : Nat} {p : α → Bool} {v : Vector α n} {i : Fin n} :
    lowest p v = some i ↔ p v[i] = true ∧ ∀ j, j < i → p v[j] = false :=
  findFin_some

/-- lowest finds nothing exactly where nothing passes. -/
theorem lowest_eq_none {α : Type} {n : Nat} {p : α → Bool} {v : Vector α n} :
    lowest p v = none ↔ ∀ i : Fin n, p v[i] = false :=
  findFin_none

/-- A table as a list is its entries in index order. -/
theorem table_toList {α : Type} {n : Nat} (v : Vector α n) : v.toList = (List.finRange n).map fun i => v[i] := by
  apply List.ext_getElem
  · simp
  · intro i h1 h2
    simp

/-- countWhere counts the indices whose entry passes. -/
theorem countWhere_eq {α : Type} {n : Nat} (p : α → Bool) (v : Vector α n) :
    countWhere p v = (List.finRange n).countP fun i => p v[i] := by
  rw [countWhere, table_toList, List.countP_map]
  rfl

end Sys2Proof.Machine
end

