-- ==== Sys2Proof/Laws/Moves.lean ====
section
/-! SUPPORT. Everything a step can do, said once: a step is a sequence of moves, each a named update of one block together with what
is known where it is made. A law of one block is kept by every step if each move of that block keeps it. -/

namespace Sys2Proof.Machine

/-- Where a hold that starts or changes reason comes from: the slot itself, or a well-formed request just accepted. -/
def Source (s : State) (k : Fin 16) (h : Hold) : Prop :=
  s.hold.slots[k].hold = some h ∨ ∃ r d, malformed r = false ∧ h = Hold.start r d

/-- One update of one block. -/
inductive Move : State → State → Prop
  | host (s x) : Move s (s.setHost x)
  | issue (s x) : Move s (s.setIssue x)
  | chains (s x) : Move s (s.setChains x)
  | port (s x) : Move s (s.setPort x)
  | pending (s x) : Move s (s.setPending x)
  | post (s) (d : Detail) (h : d.kind ≠ .hold) : Move s (s.post d)
  | present (s) (h : s.notices.entries ≠ []) : Move s (s.setNotices { s.notices with presented := true })
  | remove (s) : Move s (s.setNotices s.notices.removeHead)
  | clear (s) : Move s (s.setNotices s.notices.clear)
  | free (s k o) : Move s (s.freeSlot k o)
  | freeQuiet (s) (k : Fin 16) (o) : Move s (s.setHold { s.hold with slots := s.hold.slots.set k (s.hold.slots[k].free o) })
  | order (s k r d) (h : malformed r = false) : Move s (s.putHold k (Hold.start r d))
  | defer (s k) (h : Hold) (hs : Source s k h) (hr : h.decision.ruling = .defer) : Move s (s.holdDefer k h)
  | wait (s k) (h : Hold) (g) (hs : Source s k h) : Move s (s.holdImageWait k h g)
  | renew (s k) (h : Hold) (hs : s.hold.slots[k].hold = some h) (hr : h.reason = .defer) (hn : h.renewals < 3) :
      Move s (s.putHold k { h with deadline := some (s.hold.lengthOf h.decision), renewals := h.renewals + 1 })
  | mark (s k) (h : Hold) (n) (hs : s.hold.slots[k].hold = some h) : Move s (s.putHold k { h with notice := n })
  | elapse (s r) : Move s (s.setHold (s.hold.elapse r))
  | timeout (s) (c : Fin 4) (v : Nat) (h : 1 ≤ v ∧ v ≤ 65535) :
      Move s (s.setHold { s.hold with timeouts := s.hold.timeouts.set c v })
  | timeouts (s) : Move s (s.setHold { s.hold with timeouts := Config.defaultTimeouts })
  | bytes (s a r) : Move s (s.setImage { s.image with bytes := s.image.serveBytes a r })
  | waits (s) (m : ImageStore) (hb : m.bytes = s.image.bytes)
      (hl : ∀ g : Fin 16, m.segments[g].live = s.image.segments[g].live) : Move s (s.setImage m)
  | load (s) (g : Fin 16) (base length) (hf : rangeFits base length = true)
      (hg : (s.image.segments[g].live = none ∧ ∀ j : Fin 16, s.image.segments[j].covers base length = false) ∨
        ∃ l, s.image.segments[g].live = some l ∧ l.base = base ∧ l.length = length) :
      Move s (s.setImage (s.image.setLive g (some { state := .loading, base := base, length := length, cursor := 0 })))
  | data (s) (g : Fin 16) (l : Live) (d : List Byte) (hg : s.image.segments[g].live = some l)
      (hd : l.cursor + d.length ≤ l.length) :
      Move s (s.setImage
        { s.image.setLive g (some { l with cursor := l.cursor + d.length }) with
          bytes := writeBytes s.image.bytes (l.base + l.cursor) d })
  | judge (s) (g : Fin 16) (l : Live) (n) (hg : s.image.segments[g].live = some l) :
      Move s (s.setImage (s.image.setLive g (some { l with state := n })))
  | drop (s) (g : Fin 16) (h : s.windows.firstReferring g = none) : Move s (s.setImage (s.image.setLive g none))
  | stage (s) (w : Fin 24) (r : WindowRecord) (hv : r.valid = true) (he : r.enabled = true → s.image.namesEmpty r = false) :
      Move s (s.setWindows { s.windows with staged := s.windows.staged.set w r })
  | unstage (s) (w : Fin 24) :
      Move s (s.setWindows
        { s.windows with staged := s.windows.staged.set w { s.windows.staged[w] with enabled := false } })
  | stageDefault (s) (d : DefaultRecord) (h : d.readPolicy ≠ .discard) :
      Move s (s.setWindows { s.windows with stagedDefault := d })
  | statistics (s x y) : Move s (s.setWindows { s.windows with readsMatched := x, writesMatched := y })
  | count (s w o) : Move s (s.setWindows ((s.windows.countTrip w).countMatch w o))
  | commit (s) (h : s.lowestFailing = none) : Move s (s.setWindows s.windows.committed)
  | clearWindows (s) : Move s (s.setWindows s.windows.cleared)
  | clearImage (s) (h : ∀ i : Fin 24, s.windows.staged[i].enabled = false ∧ s.windows.active[i].enabled = false) :
      Move s (s.setImage State.reset.image)
  | power (s l) : Move s (s.powerOn l)

/-- A sequence of moves. -/
abbrev Moves : State → State → Prop := Relation.ReflTransGen Move

theorem Move.moves {s t : State} (h : Move s t) : Moves s t := .single h

theorem Moves.refl {s : State} : Moves s s := Relation.ReflTransGen.refl

/-- A property that every move keeps, every sequence of moves keeps. -/
theorem Moves.keeps {P : State → Prop} (hP : ∀ s t, Move s t → P s → P t) {s t : State} (h : Moves s t) : P s → P t := by
  intro hs
  induction h with
  | refl => exact hs
  | tail _ hm ih => exact hP _ _ hm ih

/-! ### Shared operations -/

theorem post_moves (s : State) {d : Detail} (h : d.kind ≠ .hold) : Moves s (s.post d) := (Move.post s d h).moves

theorem respond_moves (s : State) (t : Fin 32) (st : HostStatus) (d : List Byte) : Moves s (s.respond t st d) :=
  (Move.host s _).moves

theorem setTag_moves (s : State) (t : Fin 32) (e : Option TagEntry) : Moves s (s.setTag t e) := (Move.host s _).moves

theorem enqueue_moves (s : State) (e : IssueEntry) : Moves s (s.enqueue e) := (Move.issue s _).moves

theorem answerSlot_moves (s : State) (k : Fin 16) (h : Hold) (st : HostStatus) (d : List Byte) (o : LastOutcome) :
    Moves s (s.answerSlot k h st d o) :=
  ((respond_moves s _ _ _).trans (Move.free _ k o).moves).trans (setTag_moves _ _ _)

theorem forwardSlot_moves (s : State) (k : Fin 16) (h : Hold) (e : IssueEntry) (o : LastOutcome) :
    Moves s (s.forwardSlot k h e o) :=
  ((enqueue_moves s _).trans (Move.free _ k o).moves).trans (setTag_moves _ _ _)

theorem serve_moves (s : State) (g : Fin 16) (p : Nat) (r : HostRequest) : Moves s (s.serve g p r).1 := by
  unfold State.serve
  split
  · split
    · split
      · exact (Move.bytes s _ _).moves
      · exact post_moves s (by simp [Detail.kind])
    · exact post_moves s (by simp [Detail.kind])
  · exact post_moves s (by simp [Detail.kind])

theorem answerServed_moves (s : State) (k : Fin 16) (h : Hold) (o : Option (List Byte)) : Moves s (s.answerServed k h o) := by
  unfold State.answerServed
  split <;> exact answerSlot_moves s _ _ _ _ _

theorem startHead_moves (s : State) (k : Fin 16) (h : Hold) (hs : s.hold.slots[k].hold = some h) :
    Moves s (s.startHead k h).1 := by
  unfold State.startHead
  split
  · exact forwardSlot_moves s _ _ _ _
  · exact (Move.defer s k h (.inl hs) (by assumption)).moves
  · split
    · exact (Move.wait s k h _ (.inl hs)).moves
    · exact (serve_moves s _ _ _).trans (answerServed_moves _ _ _ _)
  · exact answerSlot_moves s _ _ _ _ _
  · exact answerSlot_moves s _ _ _ _ _

/-- slotOf names a HELD slot and its hold. -/
theorem slotOf_hold {s : State} {t : Fin 32} {k : Fin 16} {h : Hold} (hs : s.slotOf t = some (k, h)) :
    s.hold.slots[k].hold = some h := by
  unfold State.slotOf at hs
  split at hs
  · rw [Option.map_eq_some_iff] at hs
    obtain ⟨a, ha, he⟩ := hs
    simp only [Prod.mk.injEq] at he
    rw [← he.1, ← he.2]
    exact ha
  · cases hs

theorem cascade_moves (w : Fin 24) (l : List (Fin 32)) (s : State) : Moves s (State.cascade w l s) := by
  induction l generalizing s with
  | nil => exact (Move.chains s _).moves
  | cons t rest ih =>
    unfold State.cascade
    split
    · exact (Move.chains s _).moves
    · rename_i k h hs
      have hm := startHead_moves s k h (slotOf_hold hs)
      split
      · rename_i s' he
        rw [he] at hm
        exact hm.trans (ih s')
      · rename_i s' he
        rw [he] at hm
        exact hm.trans (Move.chains s' _).moves

theorem advance_moves (s : State) (t : Fin 32) (e : Option TagEntry) : Moves s (s.advance t e) := by
  unfold State.advance
  split
  · split
    · split
      · exact cascade_moves _ _ _
      · exact .refl
    · exact .refl
  · exact .refl

theorem endHold_moves (s : State) (k : Fin 16) (h : Hold) (st : HostStatus) (d : List Byte) (o : LastOutcome) :
    Moves s (s.endHold k h st d o) :=
  (answerSlot_moves s _ _ _ _ _).trans (advance_moves _ _ _)

/-- A wait list replaced leaves every segment's geometry and every byte. -/
theorem setWaiting_moves (s : State) (g : Fin 16) (l : List (Fin 16)) : Moves s (s.setImage (s.image.setWaiting g l)) := by
  refine (Move.waits s (s.image.setWaiting g l) rfl fun j => ?_).moves
  simp only [ImageStore.setWaiting]
  rw [table_set_get]
  split
  · rename_i h
    rw [h]
  · rfl

theorem leaveLists_moves (s : State) (k : Fin 16) : Moves s (s.setImage (s.image.leaveLists k)) :=
  (Move.waits s (s.image.leaveLists k) rfl fun g => by simp [ImageStore.leaveLists]).moves

theorem workMember_moves (g : Fin 16) (s : State) (k : Fin 16) : Moves s (State.workMember g s k) := by
  have h0 := setWaiting_moves s g (s.image.segments[g].waiting.filter fun j => j ≠ k)
  refine h0.trans ?_
  unfold State.workMember
  dsimp only
  split
  · exact .refl
  · split
    · exact ((serve_moves _ _ _ _).trans (answerServed_moves _ _ _ _)).trans (advance_moves _ _ _)
    · exact endHold_moves _ _ _ _ _ _

theorem foldl_moves {α : Type} (f : State → α → State) (hf : ∀ s a, Moves s (f s a)) (l : List α) (s : State) :
    Moves s (l.foldl f s) := by
  induction l generalizing s with
  | nil => exact .refl
  | cons a l ih => exact (hf s a).trans (ih (f s a))

theorem workThrough_moves (s : State) (g : Fin 16) : Moves s (s.workThrough g) :=
  foldl_moves _ (workMember_moves g) _ s

/-! ### Admission -/

theorem countAccepted_moves (s : State) (w : Fin 24) (o : Op) : Moves s (s.countAccepted w o) := by
  unfold State.countAccepted
  dsimp only
  split
  · exact (Move.count s w o).moves.trans (post_moves _ (by simp [Detail.kind]))
  · exact (Move.count s w o).moves

theorem enter_moves (s : State) (t : Fin 32) (w : Fin 24) (p : TagPlace) : Moves s (s.enter t w p) := by
  unfold State.enter
  dsimp only
  split
  · exact (setTag_moves s _ _).trans (Move.chains _ _).moves
  · exact setTag_moves s _ _

theorem dispatch_moves (s : State) (r : HostRequest) (d : Decision) (k : Option (Fin 16)) (hr : malformed r = false) :
    Moves s (s.dispatch r d k) := by
  have src : ∀ k, Source s k (Hold.start r d) := fun _ => .inr ⟨r, d, hr, rfl⟩
  unfold State.dispatch
  split
  · exact (Move.order s _ r d hr).moves.trans (enter_moves _ _ _ _)
  · exact (Move.defer s _ _ (src _) (by assumption)).moves.trans (enter_moves _ _ _ _)
  · exact (enqueue_moves s _).trans (enter_moves _ _ _ _)
  · exact respond_moves s _ _ _
  · exact respond_moves s _ _ _
  · split
    · split
      · exact (Move.wait s _ _ _ (src _)).moves.trans (enter_moves _ _ _ _)
      · exact .refl
    · dsimp only
      split <;> exact (serve_moves s _ _ _).trans (respond_moves _ _ _ _)
  · exact .refl

theorem dispatchDefault_moves (s : State) (r : HostRequest) : Moves s (s.dispatchDefault r) := by
  unfold State.dispatchDefault
  split
  · exact (enqueue_moves s _).trans (setTag_moves _ _ _)
  · exact respond_moves s _ _ _
  · exact respond_moves s _ _ _

theorem openLink_moves (s : State) : Moves s s.openLink := (Move.host s _).moves

theorem evaluate_moves (again : Bool) (r : HostRequest) (s : State) : Moves s (s.evaluate again r) := by
  unfold State.evaluate
  split
  · exact (openLink_moves s).trans (post_moves _ (by simp [Detail.kind]))
  · split
    · exact ((openLink_moves s).trans (post_moves _ (by simp [Detail.kind]))).trans (respond_moves _ _ _ _)
    · dsimp only
      split
      · exact ((openLink_moves s).trans (post_moves _ (by simp [Detail.kind]))).trans (respond_moves _ _ _ _)
      · split
        · exact (openLink_moves s).trans (dispatchDefault_moves _ _)
        · split
          · split
            · exact .refl
            · exact (Move.host s _).moves.trans (post_moves _ (by simp [Detail.kind]))
          · exact ((openLink_moves s).trans (countAccepted_moves _ _ _)).trans
              (dispatch_moves _ _ _ _ (by simpa using ‹¬ malformed r = true›))

theorem reportFreeing_moves (s b : State) : Moves s (s.reportFreeing b) := by
  unfold State.reportFreeing
  split
  · split
    · exact evaluate_moves true _ s
    · exact .refl
  · exact .refl

/-! ### The bodies of the commands -/

/-- A window record that bytes spell is a record of R1. -/
theorem decode_valid {b : List Byte} {r : WindowRecord} (h : WindowRecord.decode b = some r) : r.valid = true := by
  unfold WindowRecord.decode at h
  split at h
  · dsimp only at h
    split at h
    · simp only [Option.ite_none_right_eq_some, Option.some.injEq] at h
      obtain ⟨hv, rfl⟩ := h
      exact hv
    · cases h
  · cases h

/-- DISCARD is no read policy of the default record (R191). -/
theorem ofReadCode_ne_discard {b : Byte} {p : DefaultPolicy} (h : DefaultPolicy.ofReadCode b = some p) : p ≠ .discard := by
  rintro rfl
  unfold DefaultPolicy.ofReadCode DefaultPolicy.ofCode at h
  repeat' (split at h)
  all_goals simp_all

section bodies

variable (p : List Byte) (s : State)

theorem wsetBody_moves : Moves s (wsetBody p s).after := by
  unfold wsetBody
  split
  · exact .refl
  · split
    · split
      · exact .refl
      · rename_i r _ hd hn
        refine (Move.stage s _ r ?_ ?_).moves
        · exact decode_valid hd
        · intro he
          simpa [he] using hn
    · exact .refl

theorem wclearBody_moves : Moves s (wclearBody p s).after := by
  unfold wclearBody
  split
  · split
    · exact (Move.unstage s _).moves
    · exact .refl
  · exact .refl

theorem wdefaultBody_moves : Moves s (wdefaultBody p s).after := by
  unfold wdefaultBody
  split
  · split
    · rename_i hr _
      refine (Move.stageDefault s _ ?_).moves
      exact ofReadCode_ne_discard hr
    · exact .refl
  · exact .refl

theorem wreadBody_after : (wreadBody p s).after = s := by
  unfold wreadBody
  repeat' (first | rfl | split)

theorem wstatsBody_after : (wstatsBody p s).after = s := by
  unfold wstatsBody
  repeat' (first | rfl | split)

theorem wzeroBody_moves : Moves s (wzeroBody p s).after := by
  unfold wzeroBody
  split
  · split
    · exact (Move.statistics s _ _).moves
    · split
      · exact (Move.statistics s _ _).moves
      · exact .refl
  · exact .refl

theorem tsetBody_moves : Moves s (tsetBody p s).after := by
  unfold tsetBody
  split
  · split
    · split
      · exact .refl
      · rename_i v0 v1 _ _ _ h
        refine (Move.timeout s _ _ ⟨by omega, ?_⟩).moves
        have := v0.isLt
        have := v1.isLt
        simp only [fromLE]
        omega
    · exact .refl
  · exact .refl

/-- A decision command leaves what its function leaves for a current hold, and otherwise the state. -/
theorem withCurrent_moves (slot use : Byte) (d : Bool) (f : Fin 16 → Hold → Answer)
    (hf : ∀ k h, s.hold.slots[k].hold = some h → Moves s (f k h).after) : Moves s (s.withCurrent slot use d f).after := by
  unfold State.withCurrent
  split
  · exact .refl
  · dsimp only
    split
    · split
      · exact hf _ _ (by assumption)
      · exact .refl
    · exact .refl

theorem withDefer_moves (slot use : Byte) (f : Fin 16 → Hold → Answer)
    (hf : ∀ k h, s.hold.slots[k].hold = some h → h.reason = .defer → Moves s (f k h).after) :
    Moves s (s.withDefer slot use f).after := by
  refine withCurrent_moves s slot use true _ fun k h hk => ?_
  split
  · exact hf k h hk (by assumption)
  · exact .refl

theorem hreadBody_after : (hreadBody p s).after = s := by
  unfold hreadBody State.withCurrent
  repeat' (first | rfl | split | dsimp only)

theorem hdataBody_moves : Moves s (hdataBody p s).after := by
  unfold hdataBody
  split
  · split
    · exact .refl
    · refine withDefer_moves s _ _ _ fun k h _ _ => ?_
      split
      · exact .refl
      · split
        · exact .refl
        · exact (endHold_moves s _ _ _ _ _).trans (reportFreeing_moves _ _)
  · exact .refl

theorem hdoneBody_moves : Moves s (hdoneBody p s).after := by
  unfold hdoneBody
  split
  · split
    · exact .refl
    · refine withDefer_moves s _ _ _ fun k h _ _ => ?_
      split
      · exact .refl
      · split
        · exact .refl
        · exact (endHold_moves s _ _ _ _ _).trans (reportFreeing_moves _ _)
  · exact .refl

theorem hfwdBody_moves : Moves s (hfwdBody p s).after := by
  unfold hfwdBody
  split
  · split
    · exact .refl
    · refine withDefer_moves s _ _ _ fun k h _ _ => ?_
      split
      · exact .refl
      · split
        · exact .refl
        · have hm := fun e => (forwardSlot_moves s k h e .forwarded).trans (reportFreeing_moves _ s)
          repeat' split
          all_goals first | exact .refl | exact hm _
  · exact .refl

theorem hrefuseBody_moves : Moves s (hrefuseBody p s).after := by
  unfold hrefuseBody
  split
  · refine withDefer_moves s _ _ _ fun k h _ _ => ?_
    split
    · exact (endHold_moves s _ _ _ _ _).trans (reportFreeing_moves _ _)
    · split
      · exact (endHold_moves s _ _ _ _ _).trans (reportFreeing_moves _ _)
      · exact .refl
  · exact .refl

theorem hrenewBody_moves : Moves s (hrenewBody p s).after := by
  unfold hrenewBody
  split
  · refine withDefer_moves s _ _ _ fun k h hk hr => ?_
    dsimp only
    split
    · exact .refl
    · rename_i hn
      exact (Move.renew s k h hk hr (by simpa [Config.maxRenewals] using hn)).moves
  · exact .refl

theorem markHold_moves (d : Detail) (n : NoticeState) : Moves s (s.markHold d n) := by
  unfold State.markHold
  split
  · split
    · split
      · exact (Move.mark s _ _ n (by assumption)).moves
      · exact .refl
    · exact .refl
  · exact .refl

theorem nfetchBody_moves : Moves s (nfetchBody p s).after := by
  unfold nfetchBody
  split
  · exact .refl
  · split
    · exact .refl
    · rename_i he
      dsimp only
      split
      · exact .refl
      · exact (Move.present s (by simp [he])).moves.trans (markHold_moves _ _ _)

theorem nackBody_moves : Moves s (nackBody p s).after := by
  unfold nackBody
  split
  · split
    · split
      · exact (Move.remove s).moves.trans (markHold_moves _ _ _)
      · exact .refl
    · exact .refl
  · exact .refl

theorem sloadBody_moves : Moves s (sloadBody p s).after := by
  unfold sloadBody
  split
  · split
    · exact .refl
    · dsimp only
      split
      · exact .refl
      · rename_i hf
        split
        · rename_i l hl
          split
          · exact .refl
          · split
            · rename_i he
              exact (Move.load s _ _ _ (by simpa using hf) (.inr ⟨l, hl, he.1, he.2⟩)).moves
            · exact .refl
        · rename_i hl
          split
          · exact .refl
          · rename_i hc
            exact (Move.load s _ _ _ (by simpa using hf) (.inl ⟨hl, lowest_eq_none.1 hc⟩)).moves
  · exact .refl

theorem sdataBody_moves : Moves s (sdataBody p s).after := by
  unfold sdataBody
  split
  · split
    · exact .refl
    · split
      · exact .refl
      · dsimp only
        split
        · exact .refl
        · split
          · exact .refl
          · rename_i l hl
            split
            · exact .refl
            · split
              · exact .refl
              · rename_i ho
                split
                · exact .refl
                · rename_i hn
                  simp only [ne_eq, Decidable.not_not] at ho
                  rw [ho] at hn ⊢
                  exact (Move.data s _ l _ hl (by omega)).moves
  · exact .refl

theorem sabortBody_moves : Moves s (sabortBody p s).after := by
  unfold sabortBody
  split
  · split
    · exact .refl
    · split
      · exact .refl
      · rename_i l hl
        split
        · exact .refl
        · exact (((Move.judge s _ l _ hl).moves.trans (post_moves _ (by simp [Detail.kind]))).trans
            (workThrough_moves _ _)).trans (reportFreeing_moves _ _)
  · exact .refl

theorem sfreeBody_moves : Moves s (sfreeBody p s).after := by
  unfold sfreeBody
  split
  · split
    · exact .refl
    · split
      · exact .refl
      · rename_i hw
        split
        · exact .refl
        · dsimp only
          refine ((Move.drop s _ hw).moves.trans ?_).trans (reportFreeing_moves _ _)
          refine Relation.ReflTransGen.trans ?_ (workThrough_moves _ _)
          split
          · exact .refl
          · exact post_moves _ (by simp [Detail.kind])
  · exact .refl

theorem sreadBody_after : (sreadBody p s).after = s := by
  unfold sreadBody
  repeat' (first | rfl | split | dsimp only)

theorem sinfoBody_after : (sinfoBody p s).after = s := by
  unfold sinfoBody
  repeat' (first | rfl | split)

theorem statusBody_after : (statusBody p s).after = s := by
  unfold statusBody
  repeat' (first | rfl | split)

end bodies

/-! ### Commands and events -/

theorem makeReady_moves (s : State) (code q : Byte) (r : Result) (d : List Byte) : Moves s (s.makeReady code q r d) :=
  (Move.port s _).moves

theorem immediately_moves (s : State) (c : Command) (q : Byte) (f : State → Answer) (hf : Moves s (f s).after) :
    Moves s (s.immediately c q f) :=
  hf.trans (makeReady_moves _ _ _ _ _)

theorem takeFrame_moves (s : State) (n : Nat) (f : State → State) (hf : ∀ s, Moves s (f s)) : Moves s (s.takeFrame n f) := by
  have h0 : Moves s (s.shiftOut (List.replicate n 0)) := (Move.port s _).moves
  refine h0.trans ?_
  unfold State.takeFrame
  dsimp only
  split
  · exact (Move.port _ _).moves
  · exact (Move.port _ _).moves.trans (hf _)
  · exact hf _

theorem takeScheck_moves (q : Byte) (p : List Byte) (s : State) : Moves s (takeScheck q p s) := by
  unfold takeScheck
  dsimp only
  repeat' (first | exact makeReady_moves _ _ _ _ _ | exact (Move.port _ _).moves | split)

theorem takeCommand_moves (c : Command) (q : Byte) (p : List Byte) (s : State) : Moves s (takeCommand c q p s) := by
  cases c with
  | wset => exact immediately_moves s _ _ _ (wsetBody_moves p s)
  | wclear => exact immediately_moves s _ _ _ (wclearBody_moves p s)
  | wdefault => exact immediately_moves s _ _ _ (wdefaultBody_moves p s)
  | wread => exact immediately_moves s _ _ _ (by rw [wreadBody_after])
  | commit =>
    simp only [takeCommand, takeCommit]
    split
    · exact (Move.port _ _).moves
    · exact makeReady_moves _ _ _ _ _
  | wstats => exact immediately_moves s _ _ _ (by rw [wstatsBody_after])
  | wzero => exact immediately_moves s _ _ _ (wzeroBody_moves p s)
  | tset => exact immediately_moves s _ _ _ (tsetBody_moves p s)
  | hread => exact immediately_moves s _ _ _ (by rw [hreadBody_after])
  | hdata => exact immediately_moves s _ _ _ (hdataBody_moves p s)
  | hdone => exact immediately_moves s _ _ _ (hdoneBody_moves p s)
  | hfwd => exact immediately_moves s _ _ _ (hfwdBody_moves p s)
  | hrefuse => exact immediately_moves s _ _ _ (hrefuseBody_moves p s)
  | hrenew => exact immediately_moves s _ _ _ (hrenewBody_moves p s)
  | nfetch => exact immediately_moves s _ _ _ (nfetchBody_moves p s)
  | nack => exact immediately_moves s _ _ _ (nackBody_moves p s)
  | sload => exact immediately_moves s _ _ _ (sloadBody_moves p s)
  | sdata => exact immediately_moves s _ _ _ (sdataBody_moves p s)
  | scheck => exact takeScheck_moves q p s
  | sabort => exact immediately_moves s _ _ _ (sabortBody_moves p s)
  | sfree => exact immediately_moves s _ _ _ (sfreeBody_moves p s)
  | sread => exact immediately_moves s _ _ _ (by rw [sreadBody_after])
  | sinfo => exact immediately_moves s _ _ _ (by rw [sinfoBody_after])
  | status => exact immediately_moves s _ _ _ (by rw [statusBody_after])
  | clearall =>
    simp only [takeCommand, takeClearall]
    split
    · exact (Move.port _ _).moves
    · exact makeReady_moves _ _ _ _ _

theorem takeRaw_moves (b : List Byte) (cut : Bool) (s : State) : Moves s (takeRaw b cut s) := by
  unfold takeRaw
  split
  · exact .refl
  · split
    · unfold takePoll
      dsimp only
      split
      · exact (Move.port _ _).moves
      · exact (Move.port _ _).moves
      · exact (Move.port _ _).moves.trans (Move.port _ _).moves
    · refine takeFrame_moves s _ _ fun s => ?_
      unfold handleRaw
      dsimp only
      split
      · exact makeReady_moves _ _ _ _ _
      · split
        · exact makeReady_moves _ _ _ _ _
        · exact takeCommand_moves _ _ _ _

theorem takePoll_moves (b : List Byte) (s : State) : Moves s (takePoll b s) := by
  unfold takePoll
  dsimp only
  split
  · exact (Move.port _ _).moves
  · exact (Move.port _ _).moves
  · exact (Move.port _ _).moves.trans (Move.port _ _).moves

theorem completeCommit_moves (s : State) : Moves s (completeCommit s) := by
  unfold completeCommit
  split
  · split
    · exact makeReady_moves _ _ _ _ _
    · exact (Move.commit s (by assumption)).moves.trans (makeReady_moves _ _ _ _ _)
  · exact .refl

theorem completeScheck_moves (s : State) : Moves s (completeScheck s) := by
  unfold completeScheck
  split
  · split
    · exact .refl
    · rename_i g crc _ _ l hl
      refine ((Relation.ReflTransGen.trans ?_ (workThrough_moves _ _)).trans (reportFreeing_moves _ _)).trans
        (makeReady_moves _ _ _ _ _)
      unfold State.judge
      split
      · exact (Move.judge s g l _ hl).moves
      · exact (Move.judge s g l _ hl).moves.trans (post_moves _ (by simp [Detail.kind]))
  · exact .refl

theorem refuseSlot_moves (s : State) (k : Fin 16) : Moves s (s.refuseSlot k) := by
  unfold State.refuseSlot
  split
  · exact .refl
  · exact ((respond_moves s _ _ _).trans (setTag_moves _ _ _)).trans (Move.freeQuiet _ k _).moves

theorem clearBlocks_moves (s : State) : Moves s s.clearBlocks := by
  unfold State.clearBlocks
  dsimp only
  refine .tail (.tail ?_ (Move.clearImage _ ?_)) (Move.clear _)
  · refine .tail (.tail ?_ (Move.chains _ _)) (Move.host _ _)
    refine .tail (.tail ?_ (Move.clearWindows _)) (Move.timeouts _)
    exact foldl_moves _ refuseSlot_moves _ s
  · intro i
    simp [WindowTable.cleared, State.reset]

theorem completeClearall_moves (s : State) : Moves s (completeClearall s) := by
  unfold completeClearall
  split
  · exact ((clearBlocks_moves s).trans (reportFreeing_moves _ _)).trans (makeReady_moves _ _ _ _ _)
  · exact .refl

theorem offer_moves (r : HostRequest) (s : State) : Moves s (offer r s) := by
  unfold offer
  split
  · exact .refl
  · exact evaluate_moves false r s

theorem grantOffer_moves (s : State) : Moves s (grantOffer s) := by
  unfold grantOffer
  split
  · exact .refl
  · exact (Move.issue s _).moves.trans (setTag_moves _ _ _)

theorem memoryAnswer_moves (m : MemResponse) (s : State) : Moves s (memoryAnswer m s) := by
  unfold memoryAnswer
  split
  · exact post_moves s (by simp [Detail.kind])
  · split
    · exact (Move.issue s _).moves
    · exact (Move.issue s _).moves.trans (post_moves _ (by simp [Detail.kind]))
  · unfold State.returnResponse
    dsimp only
    refine Relation.ReflTransGen.trans ?_ (reportFreeing_moves _ _)
    refine Relation.ReflTransGen.trans ?_ (advance_moves _ _ _)
    refine Relation.ReflTransGen.trans ?_ (setTag_moves _ _ _)
    refine Relation.ReflTransGen.trans ?_ (Move.issue _ _).moves
    split
    · exact respond_moves s _ _ _
    · exact (post_moves s (by simp [Detail.kind])).trans (respond_moves _ _ _ _)

theorem expire_moves (s : State) (k : Fin 16) (h : Hold) : Moves s (s.expire k h) := by
  unfold State.expire
  dsimp only
  refine Relation.ReflTransGen.trans (leaveLists_moves s k) ?_
  split
  · exact ((answerSlot_moves _ _ _ _ _ _).trans (post_moves _ (by simp [Detail.kind]))).trans (advance_moves _ _ _)
  · exact (forwardSlot_moves _ _ _ _ _).trans (post_moves _ (by simp [Detail.kind]))

theorem runOut_moves (k : Fin 16) (s : State) : Moves s (runOut k s) := by
  unfold runOut
  split
  · exact .refl
  · split
    · exact .refl
    · exact ((Move.elapse s _).moves.trans (expire_moves _ _ _)).trans (reportFreeing_moves _ _)

theorem emptyLists_moves (s : State) :
    Moves s (s.setImage
      { s.image with segments := tableMap (fun _ g => { g with waiting := [] }) s.image.segments }) :=
  (Move.waits s { s.image with segments := tableMap (fun _ g => { g with waiting := [] }) s.image.segments } rfl
    fun g => by dsimp only; rw [tableMap_get]).moves

theorem resetLink_moves (s : State) : Moves s (resetLink s) := by
  unfold resetLink
  dsimp only
  refine .trans ?_ (post_moves _ (by simp [Detail.kind]))
  refine .tail (.trans ?_ (emptyLists_moves _)) (Move.issue _ _)
  refine .tail (.tail ?_ (Move.host _ _)) (Move.chains _ _)
  exact foldl_moves _ (fun s k => (Move.free s k .reset).moves) _ s

theorem movePin_moves (l : PinLevel) (s : State) : Moves s (movePin l s) := by
  unfold movePin
  split
  · exact (Move.power s _).moves
  · exact (Move.power s _).moves
  · exact .refl

theorem running_moves {s t : State} (f : State → State) (hf : Moves s (f s)) (h : running s f = .next t) : Moves s t := by
  unfold running at h
  split at h <;> cases h
  · exact hf
  · exact .refl

/-- exec of any command is a sequence of moves. -/
theorem exec_moves {i : Instr} {s t : State} (h : exec i s = .next t) : Moves s t := by
  cases hc : i.asCommand with
  | some x =>
    obtain ⟨c, q, p⟩ := x
    rw [asCommand_eq hc, exec_instrOf] at h
    exact running_moves _ (takeFrame_moves s _ _ fun s => takeCommand_moves c q p s) h
  | none =>
    cases i with
    | hostOffer r => exact running_moves _ (offer_moves r s) h
    | grant => exact running_moves _ (grantOffer_moves s) h
    | memoryResponse m => exact running_moves _ (memoryAnswer_moves m s) h
    | expiry k => exact running_moves _ (runOut_moves k s) h
    | hostLinkReset => exact running_moves _ (resetLink_moves s) h
    | resetn l =>
      rw [exec_resetn] at h
      cases h
      exact movePin_moves l s
    | commitCompletion => exact running_moves _ (completeCommit_moves s) h
    | scheckCompletion => exact running_moves _ (completeScheck_moves s) h
    | clearallCompletion => exact running_moves _ (completeClearall_moves s) h
    | poll rest => exact running_moves _ (takePoll_moves rest s) h
    | unexecutedFrame b c => exact running_moves _ (takeRaw_moves b c s) h
    | shortFrame w =>
      rw [exec_shortFrame] at h
      cases h
      exact .refl
    | _ => simp [Instr.asCommand] at hc

/-- A step is a sequence of moves. -/
theorem step_moves {s t : State} (h : step s = .next t) : Moves s t := by
  unfold step at h
  split at h
  · cases h
    exact (Move.elapse s 1).moves
  · exact (Move.pending s _).moves.trans (exec_moves h)

end Sys2Proof.Machine
end

