-- ==== Sys2Proof/Laws/Notices.lean ====
section
/-! SUPPORT. What each operation on the notice queue does to the slots and uses that unpresented HOLD notices name (R49, R90 to R93). -/

namespace Sys2Proof.Machine

/-- The slots and uses that the unpresented HOLD notices name, in order. -/
abbrev NoticeQueue.names (q : NoticeQueue) : List (Fin 16 × Byte) := q.unpresented.filterMap Notice.named

@[simp] theorem Notice.bump_named (n : Notice) : n.bump.named = n.named := rfl

@[simp] theorem Notice.renumbered_named (n : Notice) (v : Word16) : ({ n with seq := v } : Notice).named = n.named := rfl

theorem Notice.named_of_event {n : Notice} (h : n.detail.kind ≠ .hold) : n.named = none := by
  unfold Notice.named
  split
  · rename_i hd
    rw [hd] at h
    exact absurd rfl h
  · rfl

theorem Notice.isHoldOf_named {n : Notice} {k : Fin 16} : n.isHoldOf k = (n.named.any fun x => x.1 = k) := by
  unfold Notice.isHoldOf Notice.named
  cases n.detail <;> simp

/-- Merging an event leaves the notices' names (R91). -/
theorem mergeKind_names {c : Kind} {l es : List Notice} (h : mergeKind c l = some es) :
    es.filterMap Notice.named = l.filterMap Notice.named := by
  induction l generalizing es with
  | nil => cases h
  | cons n rest ih =>
    simp only [mergeKind] at h
    split at h
    · cases h
      simp only [List.filterMap_cons, Notice.bump_named]
    · obtain ⟨x, hx, rfl⟩ := Option.map_eq_some_iff.mp h
      simp only [List.filterMap_cons, ih hx]

/-- A withdrawal takes away the first name of its slot (R93). -/
theorem dropHold_names {k : Fin 16} {l es : List Notice} (h : dropHold k l = some es) :
    es.filterMap Notice.named = (l.filterMap Notice.named).eraseP fun x => x.1 = k := by
  induction l generalizing es with
  | nil => cases h
  | cons n rest ih =>
    have hn := Notice.isHoldOf_named (n := n) (k := k)
    simp only [dropHold] at h
    split at h
    · rename_i hk
      cases h
      rw [hk] at hn
      cases hd : n.named with
      | none => rw [hd] at hn; cases hn
      | some x =>
        rw [hd] at hn
        simp only [Option.any_some] at hn
        rw [List.filterMap_cons, hd, List.filterMap_map]
        exact (List.eraseP_cons_of_pos (p := fun x : Fin 16 × Byte => decide (x.1 = k)) hn.symm).symm
    · rename_i hk
      obtain ⟨x, hx, rfl⟩ := Option.map_eq_some_iff.mp h
      rw [List.filterMap_cons, List.filterMap_cons, ih hx]
      cases hd : n.named with
      | none => rfl
      | some y =>
        rw [hd] at hn
        simp only [Option.any_some] at hn
        rw [hn] at hk
        exact (List.eraseP_cons_of_neg (p := fun x : Fin 16 × Byte => decide (x.1 = k)) hk).symm

/-- With no notice of the slot unpresented there is no name of it. -/
theorem dropHold_none {k : Fin 16} {l : List Notice} (h : dropHold k l = none) : ∀ x ∈ l.filterMap Notice.named, x.1 ≠ k := by
  induction l with
  | nil => simp
  | cons n rest ih =>
    simp only [dropHold] at h
    split at h
    · cases h
    · rename_i hk
      rw [Notice.isHoldOf_named] at hk
      intro x hx
      obtain ⟨m, hm, hmx⟩ := List.mem_filterMap.mp hx
      rcases List.mem_cons.mp hm with rfl | hr
      · rw [hmx] at hk
        simpa using hk
      · exact ih (Option.map_eq_none_iff.mp h) x (List.mem_filterMap.mpr ⟨m, hr, hmx⟩)

/-- The unpresented entries behind the presented head are what replaces them (R94). -/
theorem NoticeQueue.unpresented_replaced (q : NoticeQueue) (es : List Notice) (c : Word16) (b : Bool)
    (h : q.presented = true → q.entries ≠ []) :
    ({ q with entries := q.fixed ++ es, counter := c, attn := b } : NoticeQueue).unpresented = es := by
  unfold NoticeQueue.unpresented NoticeQueue.fixed
  cases hp : q.presented with
  | false => rfl
  | true =>
    cases he : q.entries with
    | nil => exact absurd he (h hp)
    | cons n rest => rfl

/-- An entry appended is the last of the unpresented ones (R90). -/
theorem NoticeQueue.unpresented_append (q : NoticeQueue) (d : Detail) (h : q.presented = true → q.entries ≠ []) :
    (q.append d).unpresented = q.unpresented ++ [{ seq := q.counter, count := 1, detail := d }] := by
  unfold NoticeQueue.unpresented NoticeQueue.append NoticeQueue.withEntries
  cases hp : q.presented with
  | false => rfl
  | true =>
    cases he : q.entries with
    | nil => exact absurd he (h hp)
    | cons n rest => rfl

/-- A posted event leaves the names (R91). -/
theorem NoticeQueue.post_names (q : NoticeQueue) {d : Detail} (hd : d.kind ≠ .hold) (h : q.presented = true → q.entries ≠ []) :
    (q.post d).names = q.names := by
  unfold NoticeQueue.post
  split
  · rename_i es he
    rw [NoticeQueue.names, show ({ q with entries := q.fixed ++ es } : NoticeQueue).unpresented = es from
      NoticeQueue.unpresented_replaced q es q.counter q.attn h, mergeKind_names he]
  · rw [NoticeQueue.names, NoticeQueue.unpresented_append q d h, List.filterMap_append,
      List.filterMap_cons, Notice.named_of_event (by exact hd)]
    simp

/-- A withdrawal takes away the first name of its slot, where there is one (R93). -/
theorem NoticeQueue.withdraw_names (q : NoticeQueue) (k : Fin 16) (h : q.presented = true → q.entries ≠ []) :
    (q.withdraw k).names = q.names.eraseP fun x => x.1 = k := by
  unfold NoticeQueue.withdraw
  split
  · rename_i es he
    rw [NoticeQueue.names, ← dropHold_names he]
    exact congrArg _ (NoticeQueue.unpresented_replaced q es _ _ h)
  · rename_i he
    rw [List.eraseP_of_forall_not]
    intro x hx
    simpa using dropHold_none he x hx

end Sys2Proof.Machine
end

