-- ==== Sys2Proof/Laws/Operands.lean ====
section
/-! SUPPORT. Numbers and indices in bytes: what is written is read back (R187). -/

namespace Sys2Proof.Machine

@[simp] theorem le_length (n x : Nat) : (le n x).length = n := by
  induction n generalizing x with
  | zero => rfl
  | succ n ih => simp [le, ih]

/-- A number that fits its bytes is read back from them (R187). -/
theorem fromLE_le (n x : Nat) (h : x < 256 ^ n) : fromLE (le n x) = x := by
  induction n generalizing x with
  | zero => simp only [pow_zero] at h; simp [le, fromLE]; omega
  | succ n ih =>
    have := ih (x / 256) (by rw [pow_succ] at h; omega)
    simp only [le, fromLE, this, BitVec.toNat_ofNat]
    omega

/-- An index of a range of at most 256 is read back from its byte (R187). -/
theorem indexOf_indexByte {n : Nat} (hn : n ≤ 256) (i : Fin n) : indexOf n (indexByte i) = some i := by
  have : (indexByte i).toNat = i.val := by simp [indexByte, BitVec.toNat_ofNat]; omega
  simp [indexOf, this]

/-- A byte names no index exactly where it is out of the range. -/
theorem indexOf_eq_none {n : Nat} {b : Byte} : indexOf n b = none ↔ n ≤ b.toNat := by
  unfold indexOf
  split <;> simp_all

/-- A byte that names an index is that index's byte. -/
theorem eq_indexByte {n : Nat} {b : Byte} {i : Fin n} (h : indexOf n b = some i) : b = indexByte i := by
  unfold indexOf at h
  split at h
  · cases h
    simp [indexByte]
  · cases h

end Sys2Proof.Machine
end

