-- ==== Sys2Proof/Laws/Ops.lean ====
section
/-! SUPPORT. The shared operations, one lemma per outcome: what each answers where its case holds, as named updates. -/

namespace Sys2Proof.Machine

variable {s : State}

/-! ### Hold slots and answers -/

/-- Freeing a HELD slot (R34). -/
theorem freeSlot_held {k : Fin 16} {h : Hold} (hk : s.hold.slots[k].hold = some h) (o : LastOutcome) :
    s.freeSlot k o =
      (s.setHold { s.hold with slots := s.hold.slots.set k (s.hold.slots[k].free o) }).setNotices (s.notices.withdraw k) := by
  simp only [State.freeSlot, hk]

/-- Freeing a FREE slot changes nothing (R34). -/
theorem freeSlot_free {k : Fin 16} (hk : s.hold.slots[k].hold = none) (o : LastOutcome) : s.freeSlot k o = s := by
  simp only [State.freeSlot, hk]

/-- A held request answered: hold table, notices and host link change, and nothing else (R34, R35, R145). -/
theorem answerSlot_held {k : Fin 16} {h : Hold} (hk : s.hold.slots[k].hold = some h) (st : HostStatus) (d : List Byte)
    (o : LastOutcome) :
    s.answerSlot k h st d o =
      { s with
        hold := { s.hold with slots := s.hold.slots.set k (s.hold.slots[k].free o) }
        notices := s.notices.withdraw k
        host :=
          { s.host with
            tags := s.host.tags.set h.req.tag none
            sent := s.host.sent ++ [{ tag := h.req.tag, status := st, data := d }] } } := by
  rw [State.answerSlot, freeSlot_held (s := s.respond h.req.tag st d) (h := h) hk]
  rfl

/-- A held request put into the issue queue: hold table, notices, issue queue and its host tag change, and nothing else (R34, R35). -/
theorem forwardSlot_held {k : Fin 16} {h : Hold} (hk : s.hold.slots[k].hold = some h) (e : IssueEntry) (o : LastOutcome) :
    s.forwardSlot k h e o =
      { s with
        hold := { s.hold with slots := s.hold.slots.set k (s.hold.slots[k].free o) }
        notices := s.notices.withdraw k
        issue := { s.issue with queue := s.issue.queue ++ [e] }
        host :=
          { s.host with
            tags := s.host.tags.set h.req.tag (s.host.tags[h.req.tag].map fun x => { x with place := .queued }) } } := by
  rw [State.forwardSlot, freeSlot_held (s := s.enqueue e) (h := h) hk]
  rfl

/-- With no request withheld, a freeing has no further effect (R148). -/
theorem reportFreeing_open (b : State) (h : s.host.stalled = none) : s.reportFreeing b = s := by
  simp only [State.reportFreeing, h]

/-- The answer of a request that is in no chain advances none (R59). -/
theorem advance_plain {e : Option TagEntry} (t : Fin 32) (h : ∀ x ∈ e, x.member = false) : s.advance t e = s := by
  unfold State.advance
  split
  · exact absurd (h _ rfl) (by simp)
  · rfl

/-- The answer of the head of window w's chain starts the cascade over the members behind it (R60). -/
theorem advance_head {t : Fin 32} {w : Fin 24} {rest : List (Fin 32)} (p : TagPlace) (hc : s.chains[w] = t :: rest) :
    s.advance t (some { place := p, window := some w, member := true }) = s.cascade w rest := by
  simp only [State.advance, hc, if_pos]

/-! ### SERVE (R122, R123, R125) -/

/-- Within a READY segment the request is served from its bytes. -/
theorem serve_ready {g : Fin 16} {l : Live} {p : Nat} {r : HostRequest} (hg : s.image.segments[g].live = some l)
    (hr : l.state = .ready) (hp : p + r.len.toNat ≤ l.length) :
    s.serve g p r =
      (s.setImage { s.image with bytes := s.image.serveBytes (l.base + p) r }, some (s.image.serveData (l.base + p) r)) := by
  simp only [State.serve, hg, hr, if_true, if_pos hp]

/-- Past a READY segment's length the request is a FAULT with RANGE. -/
theorem serve_range {g : Fin 16} {l : Live} {p : Nat} {r : HostRequest} (hg : s.image.segments[g].live = some l)
    (hr : l.state = .ready) (hp : l.length < p + r.len.toNat) : s.serve g p r = (s.post (.imageFault g .range), none) := by
  simp only [State.serve, hg, hr, if_true, if_neg (Nat.not_le.mpr hp)]

/-- Of a segment that is EMPTY or not READY the request is a FAULT with FAILED. -/
theorem serve_failed {g : Fin 16} {p : Nat} {r : HostRequest} (hg : ∀ l ∈ s.image.segments[g].live, l.state ≠ .ready) :
    s.serve g p r = (s.post (.imageFault g .failed), none) := by
  unfold State.serve
  split
  · rename_i l hl
    rw [if_neg (hg l hl)]
  · rfl

/-! ### Matching and the downstream address (R6, R10) -/

/-- A remapped address in the address space's own arithmetic (R10). -/
theorem downstream_remapped {x : WindowRecord} {t a : Addr} (h : x.remap = some t) (hb : x.base.toNat ≤ a.toNat) :
    BitVec.ofNat 40 (x.downstream a) = t + (a - x.base) := by
  simp only [WindowRecord.downstream, h]
  apply BitVec.eq_of_toNat_eq
  rw [BitVec.toNat_add, BitVec.toNat_sub_of_le (BitVec.le_def.mpr hb), BitVec.toNat_ofNat]

/-- Without a remap target an address goes downstream unchanged (R10). -/
theorem downstream_unchanged {x : WindowRecord} {a : Addr} (h : x.remap = none) : BitVec.ofNat 40 (x.downstream a) = a := by
  simp [WindowRecord.downstream, h]

/-- A window's range (R1). -/
theorem contains_iff {x : WindowRecord} {a : Addr} :
    x.contains a = true ↔ x.enabled = true ∧ x.base.toNat ≤ a.toNat ∧ a.toNat < x.base.toNat + x.size := by
  simp [WindowRecord.contains, and_assoc]

/-- A match is an enabled window that contains the address (R6). -/
theorem matched_contains {t : WindowTable} {a : Addr} {w : Fin 24} (h : t.matched a = some w) : t.active[w].contains a = true :=
  (lowest_eq_some.mp h).1

/-- The one window that contains an address is its match (R6). -/
theorem matched_unique {t : WindowTable} {a : Addr} {w : Fin 24} (h : t.active[w].contains a = true)
    (hu : ∀ i : Fin 24, t.active[i].contains a = true → i = w) : t.matched a = some w := by
  cases hm : t.matched a with
  | none => exact absurd h (by rw [lowest_eq_none.mp hm w]; decide)
  | some i => rw [hu i (matched_contains hm)]

/-- An address in no window matches the default record (R6). -/
theorem matched_none {t : WindowTable} {a : Addr} (h : ∀ i : Fin 24, t.active[i].contains a = false) : t.matched a = none :=
  lowest_eq_none.mpr h

/-! ### Admission (R138 to R148) -/

theorem offer_open {r : HostRequest} (h : s.host.stalled = none) : offer r s = s.evaluate false r := by
  simp only [offer, h]

theorem offer_stalled {r q : HostRequest} (h : s.host.stalled = some q) : offer r s = s := by
  simp only [offer, h]

/-- An OPEN link stays OPEN. -/
theorem openLink_open (h : s.host.stalled = none) : s.openLink = s := by
  have : ({ s.host with stalled := none } : HostLink) = s.host := by rw [← h]
  rw [State.openLink, this]
  rfl

/-- A busy tag: TAG_CLASH (R139). -/
theorem evaluate_clash {b : Bool} {r : HostRequest} (h : s.host.tags[r.tag].isSome = true) :
    s.evaluate b r = s.openLink.post (.tagClash r.tag) := by
  simp only [State.evaluate, h, if_true]

/-- A malformed request: FAULT and REQ_ERROR (R140). -/
theorem evaluate_malformed {b : Bool} {r : HostRequest} (ht : s.host.tags[r.tag] = none) (h : malformed r = true) :
    s.evaluate b r = (s.openLink.post (.reqError r.tag r.addr .malformed)).respond r.tag .fault [] := by
  rw [State.evaluate, ht]
  simp [h]

/-- A request that straddles: FAULT and REQ_ERROR (R7, R8, R141). -/
theorem evaluate_straddle {b : Bool} {r : HostRequest} (ht : s.host.tags[r.tag] = none) (hm : malformed r = false)
    (h : s.windows.straddles (s.windows.matched r.addr) r.addr r.len.toNat = true) :
    s.evaluate b r = (s.openLink.post (.reqError r.tag r.addr .straddle)).respond r.tag .fault [] := by
  rw [State.evaluate, ht]
  simp only [Option.isSome_none, Bool.false_eq_true, if_false, hm, h, if_true]

/-- A default match is dispatched by the default record (R2, R143). -/
theorem evaluate_default {b : Bool} {r : HostRequest} (ht : s.host.tags[r.tag] = none) (hm : malformed r = false)
    (hw : s.windows.matched r.addr = none) (h : s.windows.straddles none r.addr r.len.toNat = false) :
    s.evaluate b r = s.openLink.dispatchDefault r := by
  rw [State.evaluate, ht]
  simp only [Option.isSome_none, Bool.false_eq_true, if_false, hm, hw, h]

/-- A request to a window is withheld where it needs a slot and none is FREE, and else is counted and dispatched (R142, R143). -/
theorem evaluate_window {b : Bool} {r : HostRequest} {w : Fin 24} (ht : s.host.tags[r.tag] = none) (hm : malformed r = false)
    (hw : s.windows.matched r.addr = some w) (h : s.windows.straddles (some w) r.addr r.len.toNat = false) :
    s.evaluate b r =
      if s.needsSlot (s.windows.decide w r) && s.hold.lowestFree.isNone then (if b then s else s.stall r w)
      else (s.openLink.countAccepted w r.op).dispatch r (s.windows.decide w r) s.hold.lowestFree := by
  rw [State.evaluate, ht]
  simp only [Option.isSome_none, Bool.false_eq_true, if_false, hm, hw, h]

/-! ### Decisions (R68 to R70) -/

/-- A decision that names a current hold of reason DEFER reaches its own checks. -/
theorem withDefer_current {k : Fin 16} {h : Hold} {slot : Byte} (f : Fin 16 → Hold → Answer) (hi : indexOf 16 slot = some k)
    (hk : s.hold.slots[k].hold = some h) (hr : h.reason = .defer) : s.withDefer slot s.hold.slots[k].use f = f k h := by
  simp only [State.withDefer, State.withCurrent, hi, hk, hr, if_true]

end Sys2Proof.Machine
end

