-- ==== Sys2Proof/Laws/PerInstr.lean ====
section
/-! SUPPORT. What every command is on the wire, constructor by constructor: only a poll begins with the poll code, and a command that
is a frame has at least one byte (R171, R189). -/

namespace Sys2Proof.Laws.FrameCode

/-- Where a well-formed command is a frame, its bytes begin with the poll code exactly when it is a poll (R171, R189). -/
def Statement (i : Instr) : Prop :=
  ∀ bytes cut, i.wellFormed = true → encodeFrame i = some (bytes, cut) →
    ∃ code rest, bytes = code :: rest ∧ (code = Config.pollCode ↔ ∃ r, i = .poll r)

/-- No service command has the poll code. -/
theorem commandCode_ne_poll (c : Command) : Machine.commandCode c ≠ Config.pollCode := by
  cases c <;> decide

/-- A service command's frame begins with its code. -/
theorem of_command {i : Instr} {c : Command} {q : Byte} {p : List Byte} (h : i.asCommand = some (c, q, p))
    (hp : ∀ r, i ≠ .poll r) : Statement i := by
  intro bytes cut _ he
  simp only [encodeFrame, h, Option.some.injEq, Prod.mk.injEq] at he
  exact ⟨_, _, he.1.symm, fun e => absurd e (commandCode_ne_poll c), fun ⟨r, e⟩ => absurd e (hp r)⟩

/-- An event that is no frame has no bytes. -/
theorem of_event {i : Instr} (h : encodeFrame i = none) : Statement i := by
  intro bytes cut _ he
  rw [h] at he
  cases he

theorem hostOffer (x : HostRequest) : Statement (.hostOffer x) := of_event rfl
theorem grant : Statement (.grant) := of_event rfl
theorem memoryResponse (x : MemResponse) : Statement (.memoryResponse x) := of_event rfl
theorem expiry (x : Fin 16) : Statement (.expiry x) := of_event rfl
theorem hostLinkReset : Statement (.hostLinkReset) := of_event rfl
theorem resetn (x : PinLevel) : Statement (.resetn x) := of_event rfl
theorem wset (q : Byte) (p : List Byte) : Statement (.wset q p) := of_command rfl (fun _ => Instr.noConfusion)
theorem wclear (q : Byte) (p : List Byte) : Statement (.wclear q p) := of_command rfl (fun _ => Instr.noConfusion)
theorem wdefault (q : Byte) (p : List Byte) : Statement (.wdefault q p) := of_command rfl (fun _ => Instr.noConfusion)
theorem wread (q : Byte) (p : List Byte) : Statement (.wread q p) := of_command rfl (fun _ => Instr.noConfusion)
theorem wstats (q : Byte) (p : List Byte) : Statement (.wstats q p) := of_command rfl (fun _ => Instr.noConfusion)
theorem wzero (q : Byte) (p : List Byte) : Statement (.wzero q p) := of_command rfl (fun _ => Instr.noConfusion)
theorem commit (q : Byte) (p : List Byte) : Statement (.commit q p) := of_command rfl (fun _ => Instr.noConfusion)
theorem commitCompletion : Statement (.commitCompletion) := of_event rfl
theorem tset (q : Byte) (p : List Byte) : Statement (.tset q p) := of_command rfl (fun _ => Instr.noConfusion)
theorem hread (q : Byte) (p : List Byte) : Statement (.hread q p) := of_command rfl (fun _ => Instr.noConfusion)
theorem hdata (q : Byte) (p : List Byte) : Statement (.hdata q p) := of_command rfl (fun _ => Instr.noConfusion)
theorem hdone (q : Byte) (p : List Byte) : Statement (.hdone q p) := of_command rfl (fun _ => Instr.noConfusion)
theorem hfwd (q : Byte) (p : List Byte) : Statement (.hfwd q p) := of_command rfl (fun _ => Instr.noConfusion)
theorem hrefuse (q : Byte) (p : List Byte) : Statement (.hrefuse q p) := of_command rfl (fun _ => Instr.noConfusion)
theorem hrenew (q : Byte) (p : List Byte) : Statement (.hrenew q p) := of_command rfl (fun _ => Instr.noConfusion)
theorem nfetch (q : Byte) (p : List Byte) : Statement (.nfetch q p) := of_command rfl (fun _ => Instr.noConfusion)
theorem nack (q : Byte) (p : List Byte) : Statement (.nack q p) := of_command rfl (fun _ => Instr.noConfusion)
theorem sload (q : Byte) (p : List Byte) : Statement (.sload q p) := of_command rfl (fun _ => Instr.noConfusion)
theorem sdata (q : Byte) (p : List Byte) : Statement (.sdata q p) := of_command rfl (fun _ => Instr.noConfusion)
theorem scheck (q : Byte) (p : List Byte) : Statement (.scheck q p) := of_command rfl (fun _ => Instr.noConfusion)
theorem scheckCompletion : Statement (.scheckCompletion) := of_event rfl
theorem sabort (q : Byte) (p : List Byte) : Statement (.sabort q p) := of_command rfl (fun _ => Instr.noConfusion)
theorem sfree (q : Byte) (p : List Byte) : Statement (.sfree q p) := of_command rfl (fun _ => Instr.noConfusion)
theorem sread (q : Byte) (p : List Byte) : Statement (.sread q p) := of_command rfl (fun _ => Instr.noConfusion)
theorem sinfo (q : Byte) (p : List Byte) : Statement (.sinfo q p) := of_command rfl (fun _ => Instr.noConfusion)
theorem status (q : Byte) (p : List Byte) : Statement (.status q p) := of_command rfl (fun _ => Instr.noConfusion)
theorem clearall (q : Byte) (p : List Byte) : Statement (.clearall q p) := of_command rfl (fun _ => Instr.noConfusion)
theorem clearallCompletion : Statement (.clearallCompletion) := of_event rfl
theorem poll (rest : List Byte) : Statement (.poll rest) := by
  intro bytes cut _ he
  simp only [encodeFrame, Instr.asCommand, Option.some.injEq, Prod.mk.injEq] at he
  exact ⟨_, _, he.1.symm, fun _ => ⟨rest, rfl⟩, fun _ => rfl⟩
theorem unexecutedFrame (b : List Byte) (cut : Bool) : Statement (.unexecutedFrame b cut) := by
  intro bytes cut' hw he
  simp only [encodeFrame, Instr.asCommand, Option.some.injEq, Prod.mk.injEq] at he
  cases b with
  | nil => simp [Instr.wellFormed, executesNothing] at hw
  | cons code rest =>
    simp only [Instr.wellFormed, executesNothing, Bool.and_eq_true, decide_eq_true_eq] at hw
    exact ⟨code, rest, he.1.symm, fun e => absurd e hw.1, fun ⟨r, e⟩ => Instr.noConfusion e⟩
theorem shortFrame (x : ShortCause) : Statement (.shortFrame x) := of_event rfl

end Sys2Proof.Laws.FrameCode
end

