-- ==== Sys2Proof/Tests/Slice0.lean ====
section
/-! SUPPORT. Tests on small states: ill-formed terms, frames written out from spec/10, and for each statement a state and operands that
meet the hypotheses of its clauses, at the edges of their ranges, with a field or two of what follows. Expected bytes are worked out
from the layouts of spec/10. -/

namespace Sys2Proof.Tests

open Machine Claims

set_option Elab.async false

/-! ### Helpers -/

/-- What exec answers, for looking at its fields. -/
def after (i : Instr) (s : State) : State :=
  match exec i s with
  | .next t => t
  | _ => s

/-- The result and payload of the response the port holds. -/
def answer (i : Instr) (s : State) : Option (Result × List Byte) :=
  match (after i s).port.phase with
  | .ready r => some (r.result, r.payload)
  | _ => none

def readReq (t : Fin 32) (a n : Nat) : HostRequest :=
  { tag := t, op := .read, addr := BitVec.ofNat 40 a, len := BitVec.ofNat 8 n, mask := none, data := [] }

def writeReq (t : Fin 32) (a : Nat) (d : List Byte) : HostRequest :=
  { tag := t, op := .write, addr := BitVec.ofNat 40 a, len := BitVec.ofNat 8 d.length, mask := none, data := d }

def window (a : Nat) (r w : Policy) : WindowRecord :=
  { enabled := true, base := BitVec.ofNat 40 a, readPolicy := r, writePolicy := w }

def table : Vector WindowRecord 24 :=
  ((((((Vector.replicate 24 {}).set 0 (window 0 .defer .defer)).set 1
    { window 64 .pass .discard with ordered := true }).set 2
    { window 128 .serve .serve with segment := some ⟨0, 0⟩ }).set 3 (window 192 .deny .discard)).set 4
    { window 256 .pass .pass with size := 128, remap := some 0x1040 }).set 5
    { window 384 .serve .serve with segment := some ⟨1, 0⟩ }

/-- Windows of every policy; segment 0 READY, 1 LOADING and loaded, 2 FAILED, the others EMPTY. -/
def part : State :=
  { State.reset with
    windows := { State.reset.windows with staged := table, active := table }
    image :=
      { bytes := [(0, 0xAA), (31, 0xBB)]
        segments :=
          (((Vector.replicate 16 { live := none, waiting := [] }).set 0
            { live := some { state := .ready, base := 0, length := 32, cursor := 32 }, waiting := [] }).set 1
            { live := some { state := .loading, base := 32, length := 8, cursor := 8 }, waiting := [] }).set 2
            { live := some { state := .failed, base := 64, length := 32, cursor := 0 }, waiting := [] } } }

theorem accepts_idle {s : State} (h : s.resetn = .high) (hp : s.port.phase = .idle) : Accepts s :=
  ⟨h, fun c e => by rw [hp] at e; cases e⟩

theorem test_part_accepts : Accepts part := accepts_idle rfl rfl

def busy (c : Executing) (s : State) : State := { s with port := { s.port with phase := .busy c } }

def heldWith (r : HostRequest) (x : Reason) (g : Ruling) (d : Option Nat) (n : NoticeState) : Hold :=
  { reason := x, req := r
    decision := { window := 0, ruling := g, downstream := r.addr, timeoutClass := 3, expiryAction := .expire }
    deadline := d, renewals := 2, notice := n }

/-- A request held in slot k, its tag busy there. -/
def place (s : State) (k : Fin 16) (h : Hold) (m : Bool) : State :=
  { s with hold := heldSlot s.hold k h, host := busyTag s.host h.req.tag (.held k) (some 0) m }

def deferred (r : HostRequest) : Hold := heldWith r .defer .defer (some 65535) .queued

def holdNotice (k : Fin 16) (u : Byte) (r : HostRequest) : Detail := .hold k u r.op 0 r.addr r.len

/-- A READ of 8 bytes, and a WRITE of 2, held for DEFER in slot 15 with a HOLD notice. -/
def readHeld : State :=
  { place part 15 (deferred (readReq 31 0 8)) false with
    notices := part.notices.append (holdNotice 15 0 (readReq 31 0 8)) }
def writeHeld : State := place part 15 (deferred (writeReq 31 0 [1, 2])) false

/-- Every slot HELD. -/
def full : State :=
  { part with
    hold := { part.hold with slots := Vector.replicate 16 { use := 0, last := .none, hold := some (deferred (readReq 31 0 8)) } } }

/-! ### Terms of the syntax that are no events -/

theorem test_wellFormed_longest_payload : (Instr.hdata 0 (List.replicate 160 0)).wellFormed = true := by decide +kernel
theorem test_wellFormed_refuses_payload :
    ∀ c ∈ [Command.wset, .wclear, .wdefault, .wread, .commit, .wstats, .wzero, .tset, .hread, .hdata, .hdone, .hfwd, .hrefuse,
      .hrenew, .nfetch, .nack, .sload, .sdata, .scheck, .sabort, .sfree, .sread, .sinfo, .status, .clearall],
      (instrOf c 0 (List.replicate 161 0)).wellFormed = false := by decide +kernel
theorem test_wellFormed_refuses_empty_frame : (Instr.unexecutedFrame [] false).wellFormed = false := by decide
theorem test_wellFormed_refuses_poll_code : (Instr.unexecutedFrame [0x7E, 1, 2] false).wellFormed = false := by decide
theorem test_wellFormed_refuses_executable :
    (Instr.unexecutedFrame [0x15, 0x44, 0x02, 0x04, 0x00, 0x9E] false).wellFormed = false := by decide +kernel
theorem test_wellFormed_unexecuted : (Instr.unexecutedFrame [0x15, 0x44, 0x02, 0x04, 0x00, 0x9F] false).wellFormed = true := by
  decide +kernel

/-! ### Frames written out -/

/-- No row of the table gives bits, so no word spells a command (log 17). -/
theorem test_no_word_spells_a_command : decodeTableWord 8 0x14 = none ∧ State.reset.withFetchWord 8 0x14 = State.reset := ⟨rfl, rfl⟩

/-- A poll, a frame of 3 bytes, and the manual's wstats frame (R189, R173). -/
theorem test_decode_frames :
    decodeFrame [0x7E, 0x00, 0x00] false = some (.poll [0, 0]) ∧ decodeFrame [0x7E, 0x15, 0x44] true = some (.poll [0x15, 0x44]) ∧
    [(0x70 : Byte)] ≠ [] ∧ ([0x70] : List Byte).getD 0 0 ≠ 0x7E ∧ decodeFrame [0x70] true = some (.unexecutedFrame [0x70] true) ∧
    (Instr.poll [0, 0]).wellFormed = true ∧ encodeFrame (.poll [0, 0]) = some ([0x7E, 0, 0], false) ∧
    decodeFrame [0x70, 0x00, 0x00] false = some (.unexecutedFrame [0x70, 0x00, 0x00] false) ∧
    decodeFrame [0x15, 0x44, 0x02, 0x04, 0x00, 0x9E] false = some (.wstats 0x44 [4, 0]) := by decide +kernel

/-- The frame of R189's codes in front of a checked body, for each family. -/
theorem test_decode_families :
    ∀ x ∈ [((0x11 : Byte), Instr.wclear 1 [7]), (0x20, .tset 1 [7]), (0x33, .hfwd 1 [7]), (0x41, .nack 1 [7]), (0x54, .sfree 1 [7]),
        (0x71, .clearall 1 [7])],
      decodeFrame [x.1, 1, 1, 7, crc8 [x.1, 1, 1, 7]] false = some x.2 := by decide +kernel

/-! ### Queue, reset and RESETn -/

theorem test_step_takes_the_front :
    step { part with pending := [.grant, .hostLinkReset] } = exec .grant { part with pending := [.hostLinkReset] } := rfl

theorem test_idle_step :
    readHeld.pending = [] ∧ ((match step readHeld with | .next t => t | _ => readHeld).hold.slots[15].hold.map Hold.deadline) =
      some (some 65534) := by decide +kernel

theorem test_resetn :
    (after (.resetn .low) readHeld).resetn = .low ∧ (after (.resetn .low) readHeld).hold = State.reset.hold ∧
    (State.reset.powerOn .low).resetn = .low ∧ (State.reset.powerOn .low).PinLawful ∧ readHeld.resetn = .high := by
  refine ⟨by decide +kernel, by decide +kernel, rfl, fun _ => rfl, rfl⟩

theorem test_nothing_taken_in_reset :
    (State.reset.powerOn .low).resetn = .low ∧ (∀ l, Instr.hostOffer (readReq 0 0 8) ≠ .resetn l) ∧
    after (.hostOffer (readReq 0 0 8)) (State.reset.powerOn .low) = State.reset.powerOn .low :=
  ⟨rfl, fun _ => Instr.noConfusion, by decide +kernel⟩

/-! ### Codes (R187) -/

/-- The two status bits of a host response, and the byte that hrefuse gives for two of them (R187, R195). -/
theorem test_host_status_codes :
    HostStatus.ok.code = 0 ∧ HostStatus.refused.code = 1 ∧ HostStatus.expired.code = 2 ∧ HostStatus.fault.code = 3 ∧
    HostStatus.refused.byte = 0x01 ∧ HostStatus.fault.byte = 0x03 := by decide

/-! ### The port -/

def statusFrame : List Byte := commandFrame 0x70 9 []

theorem test_busy_port_witness :
    (Instr.status 9 []).wellFormed = true ∧ encodeFrame (.status 9 []) = some (statusFrame, false) ∧
    (∀ r, Instr.status 9 [] ≠ .poll r) ∧ (busy (.commit 3) part).resetn = .high ∧ (busy (.commit 3) part).port.phase = .busy (.commit 3) ∧
    (after (.status 9 []) (busy (.commit 3) part)).port.dropped = true :=
  ⟨rfl, rfl, fun _ => Instr.noConfusion, rfl, rfl, by decide +kernel⟩

/-- A part whose port holds the response of a wclear. -/
def readyPart : State := after (.wclear 1 [0]) part

theorem test_ready_port_witness :
    (Instr.wclear 9 [24]).wellFormed = true ∧ encodeFrame (.wclear 9 [24]) = some (commandFrame 0x11 9 [24], false) ∧
    (∀ r, Instr.wclear 9 [24] ≠ .poll r) ∧ Accepts readyPart ∧
    (∃ r, readyPart.port.phase = .ready r) ∧ (∃ r, (after (.wclear 9 [24]) readyPart).port.phase = .ready r ∧
      r.result = .invalid ∧ r.overwritten = true) := by
  refine ⟨rfl, rfl, fun _ => Instr.noConfusion, ⟨by decide +kernel, fun c e => ?_⟩, ⟨_, rfl⟩, ⟨_, rfl, rfl, rfl⟩⟩
  have : readyPart.port.phase ≠ .busy c := by cases c <;> exact fun h => by cases h
  exact this e

/-- A ready response of 6 bytes leaves in a poll of 9 bytes, zero bytes after it; a short poll releases it too (R179). -/
theorem test_poll :
    part.port.phase = .idle ∧ readyPart.resetn = .high ∧
    (after (.poll [1, 2, 3, 4, 5, 6, 7, 8]) readyPart).port.phase = .idle ∧
    (after (.poll [1, 2, 3, 4, 5, 6, 7, 8]) readyPart).port.miso.getLastD [] =
      [0x00, 0x03, 0x11, 0x01, 0x00, 0x00, 0x00, crc8 [0x11, 0x01, 0x00, 0x00, 0x00], 0x00] ∧
    (after (.poll []) (busy (.commit 3) part)).port.miso = [[0x00]] ∧ (after (.poll [9]) part).port.miso = [[0x00, 0x01]] := by
  decide +kernel

theorem test_short_frame : after (.shortFrame (.edges 7)) part = part ∧ after (.shortFrame .acrossReset) part = part := ⟨rfl, rfl⟩

/-- OVERSIZE before LENGTH, LENGTH of a short, cut or ill-counted frame, CRC, and UNKNOWN (R173). -/
theorem test_unexecuted_frames :
    Accepts part ∧
    answer (.unexecutedFrame [0x10, 1, 161] true) part = some (.frameError, [1, 3, 0]) ∧
    answer (.unexecutedFrame [0x10, 161] false) part = some (.frameError, [2, 2, 0]) ∧
    answer (.unexecutedFrame [0x10, 1, 160] false) part = some (.frameError, [2, 3, 0]) ∧
    answer (.unexecutedFrame [0x70, 1, 0, crc8 [0x70, 1, 0]] true) part = some (.frameError, [2, 4, 0]) ∧
    answer (.unexecutedFrame [0x70, 1, 0, 1 + crc8 [0x70, 1, 0]] false) part = some (.frameError, [3, 4, 0]) ∧
    (∀ c, commandCode c ≠ 0x72) ∧
    answer (.unexecutedFrame [0x72, 1, 0, crc8 [0x72, 1, 0]] false) part = some (.unknown, []) :=
  ⟨test_part_accepts, by decide +kernel, by decide +kernel, by decide +kernel, by decide +kernel, by decide +kernel,
    by intro c; cases c <;> decide, by decide +kernel⟩

/-- One byte short of a layout and one past it (R187, R189); an hfwd selector with an unnamed bit. -/
theorem test_layout_lengths :
    Accepts part ∧
    (∀ x ∈ [(Command.wset, 26), (.wset, 28), (.hdata, 1), (.hfwd, 2), (.sdata, 3), (.sdata, 132), (.status, 1), (.hread, 4), (.scheck, 4),
        (.sread, 5), (.sload, 6), (.sinfo, 0), (.hrefuse, 2), (.hrenew, 3), (.hdone, 161)],
      answer (instrOf x.1 0 (List.replicate x.2 0)) part = some (.invalid, [])) ∧
    answer (.hfwd 0 [0, 0, 8]) part = some (.invalid, []) :=
  ⟨test_part_accepts, by decide +kernel, by decide +kernel⟩

/-! ### Window commands -/

theorem test_wset :
    Accepts part ∧ (window 640 .serve .pass).valid = false ∧
    ({ window 640 .serve .pass with segment := some ⟨2, 16376⟩ } : WindowRecord).valid = true ∧
    part.image.namesEmpty { window 640 .serve .pass with segment := some ⟨2, 16376⟩ } = false ∧
    (after (.wset 0 (indexByte (23 : Fin 24) :: ({ window 640 .serve .pass with segment := some ⟨2, 16376⟩ } : WindowRecord).encode))
      part).windows.staged[23] = { window 640 .serve .pass with segment := some ⟨2, 16376⟩ } ∧
    answer (.wset 0 (indexByte (23 : Fin 24) :: ({ window 640 .serve .pass with segment := some ⟨3, 0⟩ } : WindowRecord).encode)) part =
      some (.invalid, []) ∧
    answer (.wset 0 (24 :: (window 640 .pass .pass).encode)) part = some (.invalid, []) :=
  ⟨test_part_accepts, by decide +kernel⟩

/-- The initial record, and one with every optional field present, byte by byte (R191). -/
theorem test_window_record :
    ({} : WindowRecord).encode = List.replicate 16 0 ++ [1] ++ List.replicate 9 0 ∧
    ({ enabled := true, base := 0x0102030440, size := 0x40C0, readPolicy := .serve, writePolicy := .discard, remap := some 0x0506070880,
       segment := some ⟨15, 0x1238⟩, ordered := true, timeoutClass := 3, expiryAction := .forward,
       trip := some ⟨0x0203, .deny, .defer⟩ } : WindowRecord).encode =
      [0x3F, 1, 4, 3, 2, 3, 15, 0x38, 0x12, 0x03, 0x02, 0x40, 0x04, 0x03, 0x02, 0x01, 0x03, 0x01, 0, 0, 0,
       0x80, 0x08, 0x07, 0x06, 0x05] := by decide +kernel

theorem test_wclear :
    Accepts part ∧ (after (.wclear 0 [5]) part).windows.staged[5].enabled = false ∧
    (after (.wclear 0 [5]) part).windows.active = table ∧ answer (.wclear 0 [24]) part = some (.invalid, []) ∧
    (∀ w : Fin 24, [(24 : Byte)] ≠ [indexByte w]) := ⟨test_part_accepts, by decide +kernel⟩

theorem test_wdefault :
    Accepts part ∧ (after (.wdefault 0 [3, 4]) part).windows.stagedDefault = { readPolicy := .deny, writePolicy := .discard } ∧
    (after (.wdefault 0 [3, 4]) part).windows.activeDefault = {} ∧ answer (.wdefault 0 [4, 0]) part = some (.invalid, []) ∧
    answer (.wdefault 0 [0, 1]) part = some (.invalid, []) := ⟨test_part_accepts, by decide +kernel⟩

theorem test_wread :
    Accepts part ∧ answer (.wread 0 [1, 0xFF]) part = some (.done, [1, 0xFF, 0, 0, 0]) ∧
    (answer (.wread 0 [1, 23]) part).map (fun x => (x.1, x.2.length)) = some (.done, 32) ∧
    (answer (.wread 0 [0, 2]) part).map (fun x => x.2.take 12) = some [0, 2, 0, 0x11, 1, 1, 0, 0, 0, 0, 0, 0] ∧
    answer (.wread 0 [0, 24]) part = some (.invalid, []) ∧ answer (.wread 0 [2, 0]) part = some (.invalid, []) :=
  ⟨test_part_accepts, by decide +kernel⟩

def counted : State :=
  { part with windows := { part.windows with readsMatched := Vector.replicate 24 0x01020304, writesMatched := Vector.replicate 24 5 } }

theorem test_wstats :
    Accepts counted ∧ answer (.wstats 0 [23, 0]) counted = some (.done, [4, 3, 2, 1, 5, 0, 0, 0]) ∧
    answer (.wstats 0 [23, 1]) counted = some (.invalid, []) := ⟨accepts_idle rfl rfl, by decide +kernel⟩

theorem test_wzero :
    Accepts counted ∧ (after (.wzero 0 [1]) counted).windows.readsMatched[1] = 0 ∧ (after (.wzero 0 [1]) counted).windows.readsMatched[0] ≠ 0 ∧
    (after (.wzero 0 [0xFF]) counted).windows.writesMatched = Vector.replicate 24 0 ∧ answer (.wzero 0 [24]) counted = some (.invalid, []) :=
  ⟨accepts_idle rfl rfl, by decide +kernel⟩

theorem test_commit_and_clearall_taken :
    Accepts part ∧ (after (.commit 5 []) part).port.phase = .busy (.commit 5) ∧
    (after (.clearall 6 []) part).port.phase = .busy (.clearall 6) ∧ answer (.clearall 6 [0]) part = some (.invalid, []) :=
  ⟨test_part_accepts, by decide +kernel⟩

/-- One staged window enabled; and two that share a byte, 2 and 3. -/
def staging (l : List (Fin 24 × WindowRecord)) : State :=
  { State.reset with
    windows := { State.reset.windows with staged := l.foldl (fun v x => v.set x.1 x.2) (Vector.replicate 24 {}) } }

def oneStaged : State :=
  busy (.commit 5) (staging [(7, { window 0 .pass .pass with trip := some ⟨65535, .deny, .deny⟩ })])
def overlapping : State :=
  busy (.commit 5) (staging [(2, window 64 .pass .pass), (3, { window 64 .pass .pass with size := 128 })])

theorem test_commit_completion :
    oneStaged.resetn = .high ∧ oneStaged.port.phase = .busy (.commit 5) ∧ (∀ i : Fin 24, 0 < oneStaged.windows.staged[i].size) ∧
    (∀ i : Fin 24, passes oneStaged i) ∧ (after .commitCompletion oneStaged).windows.tripRemaining[7] = 65535 ∧
    (after .commitCompletion oneStaged).windows.generation = 1 := by
  refine ⟨rfl, rfl, by decide +kernel, fun i hi => ?_, by decide +kernel, by decide +kernel⟩
  have h : ∀ i : Fin 24, oneStaged.windows.staged[i].enabled = true → i = 7 := by decide +kernel
  have := h i hi
  subst this
  exact ⟨by decide +kernel, by decide +kernel, by decide +kernel, fun j hj he => absurd (h j he) hj⟩

theorem test_commit_completion_overlap :
    overlapping.port.phase = .busy (.commit 5) ∧ (∀ i : Fin 24, 0 < overlapping.windows.staged[i].size) ∧ ¬ passes overlapping 2 ∧
    (∀ j : Fin 24, j < 2 → passes overlapping j) ∧ answer .commitCompletion overlapping = some (.invalid, [2]) := by
  have h2 : ∀ i : Fin 24, overlapping.windows.staged[i].enabled = true → ¬ i < 2 := by decide +kernel
  refine ⟨rfl, by decide +kernel, fun h => ?_, fun j hj he => absurd hj (h2 j he), by decide +kernel⟩
  exact (h (by decide +kernel)).2.2.2 3 (by decide) (by decide +kernel) ⟨64, by decide +kernel⟩

theorem test_completions_need_their_command :
    (∀ q, part.port.phase ≠ .busy (.commit q)) ∧ (∀ q g c, part.port.phase ≠ .busy (.scheck q g c)) ∧
    (∀ q, part.port.phase ≠ .busy (.clearall q)) ∧ after .scheckCompletion part = part ∧
    (∀ q, (busy (.clearall 1) part).port.phase ≠ .busy (.commit q)) ∧ after .commitCompletion (busy (.clearall 1) part) = busy (.clearall 1) part :=
  ⟨fun _ => PortPhase.noConfusion, fun _ _ _ => PortPhase.noConfusion, fun _ => PortPhase.noConfusion, by decide +kernel,
    fun _ h => Executing.noConfusion (PortPhase.busy.inj h), by decide +kernel⟩

/-! ### Timeouts and decisions -/

theorem test_tset :
    Accepts part ∧ (after (.tset 0 [3, 1, 0]) part).hold.timeouts[3] = 1 ∧ (after (.tset 0 [0, 0xFF, 0xFF]) part).hold.timeouts[0] = 65535 ∧
    answer (.tset 0 [0, 0, 0]) part = some (.invalid, []) ∧ answer (.tset 0 [4, 1, 0]) part = some (.invalid, []) :=
  ⟨test_part_accepts, by decide +kernel⟩

/-- Slot 0 FREE under use 1 after an expiry: use 0 is LATE, use 1 STALE, and hread always STALE (R69). -/
def afterExpiry : State :=
  { readHeld with hold := { readHeld.hold with slots := readHeld.hold.slots.set 0 { use := 1, last := .expired, hold := none } } }

theorem test_stale_and_late :
    Accepts afterExpiry ∧ afterExpiry.hold.slots[0].hold = none ∧ afterExpiry.hold.slots[15].use ≠ 1 ∧
    answer (.hrefuse 0 [0, 0, 2]) afterExpiry = some (.late, [0, 1, 4]) ∧
    answer (.hrefuse 0 [0, 1, 2]) afterExpiry = some (.stale, [0, 1, 4]) ∧
    answer (.hread 0 [0, 0, 7]) afterExpiry = some (.stale, [0, 1, 4]) ∧
    answer (.hdata 0 (15 :: 1 :: List.replicate 158 0)) afterExpiry = some (.stale, [1, 0, 0]) ∧
    answer (.hfwd 0 (15 :: 1 :: fwdPayload (some 0) (some [true]) (some []))) afterExpiry = some (.stale, [1, 0, 0]) ∧
    (16 : Byte).toNat = 16 ∧ answer (.hrenew 0 [16, 0]) afterExpiry = some (.invalid, []) :=
  ⟨accepts_idle rfl rfl, by decide +kernel⟩

/-- A hold for ORDER and one for IMAGE_WAIT are not decided (R70). -/
def undecided : State :=
  place (place part 0 (heldWith (readReq 1 0 8) .order .defer none .none) true) 1
    (heldWith (readReq 2 0 8) .imageWait (.serve 1 0) (some 1) .none) false

theorem test_wrong_state :
    Accepts undecided ∧ undecided.hold.slots[0].hold = some (heldWith (readReq 1 0 8) .order .defer none .none) ∧
    answer (.hdata 0 [0, 0]) undecided = some (.wrongState, [3]) ∧ answer (.hrenew 0 [1, 0]) undecided = some (.wrongState, [2]) :=
  ⟨accepts_idle rfl rfl, by decide +kernel⟩

/-- The record's first 13 bytes, and its deadline, renewals, notice and presence bytes (R192). -/
theorem test_hread :
    Accepts readHeld ∧ readHeld.hold.slots[15].hold = some (deferred (readReq 31 0 8)) ∧
    (answer (.hread 0 [15, 0, 0]) readHeld).map (fun x => x.2.take 13) = some [15, 0, 1, 0, 31, 0, 0, 0, 0, 0, 0, 8, 0] ∧
    (answer (.hread 0 [15, 0, 0]) readHeld).map (fun x => ((x.2.drop 25).take 7, x.2.length)) =
      some ([3, 0, 0xFF, 0xFF, 2, 1, 2], 48) ∧
    answer (.hread 0 [15, 0, 1]) readHeld = some (.wrongKind, [0]) ∧ answer (.hread 0 [15, 0, 1]) writeHeld = some (.done, [1, 2]) ∧
    answer (.hread 0 [15, 0, 2]) writeHeld = some (.invalid, []) := ⟨accepts_idle rfl rfl, by decide +kernel⟩

theorem test_decides :
    Decides readHeld 15 0 (deferred (readReq 31 0 8)) ∧ Decides writeHeld 15 0 (deferred (writeReq 31 0 [1, 2])) ∧
    Plain readHeld 31 ∧ Plain writeHeld 31 := by
  unfold Decides Plain
  decide +kernel

theorem test_hdata :
    Accepts readHeld ∧ (deferred (readReq 31 0 8)).req.op = .read ∧
    (after (.hdata 0 (15 :: 0 :: List.replicate 8 6)) readHeld).host.sent = [{ tag := 31, status := .ok, data := List.replicate 8 6 }] ∧
    (after (.hdata 0 (15 :: 0 :: List.replicate 8 6)) readHeld).hold.slots[15] = { use := 1, last := .answered, hold := none } ∧
    (after (.hdata 0 (15 :: 0 :: List.replicate 8 6)) readHeld).notices = part.notices ∧
    answer (.hdata 0 (15 :: 0 :: List.replicate 9 6)) readHeld = some (.badLength, [8]) ∧
    answer (.hdata 0 [15, 0]) writeHeld = some (.wrongKind, [1]) := ⟨accepts_idle rfl rfl, by decide +kernel⟩

theorem test_hdone :
    Accepts writeHeld ∧ (after (.hdone 0 [15, 0]) writeHeld).host.sent = [{ tag := 31, status := .ok, data := [] }] ∧
    (after (.hdone 0 [15, 0]) writeHeld).host.tags[31] = none ∧ answer (.hdone 0 [15, 0, 1]) writeHeld = some (.badLength, [2]) ∧
    answer (.hdone 0 [15, 0]) readHeld = some (.wrongKind, [0]) := ⟨accepts_idle rfl rfl, by decide +kernel⟩

theorem test_hrefuse :
    Accepts readHeld ∧ (after (.hrefuse 0 [15, 0, 3]) readHeld).host.sent = [{ tag := 31, status := .fault, data := [] }] ∧
    (after (.hrefuse 0 [15, 0, 1]) readHeld).hold.slots[15].last = .refused ∧ answer (.hrefuse 0 [15, 0, 2]) readHeld = some (.invalid, []) :=
  ⟨accepts_idle rfl rfl, by decide +kernel⟩

/-- An address, mask and data for a WRITE; the last byte of a block in reach and one past it; counts that differ (R76, R77). -/
theorem test_hfwd :
    Accepts writeHeld ∧ oneBlock 126 2 ∧ ¬ oneBlock 127 2 ∧
    (after (.hfwd 0 (15 :: 0 :: fwdPayload (some 126) (some [true, false]) (some [7, 8]))) writeHeld).issue.queue =
      [{ tag := 31, op := .write, addr := 126, len := 2, mask := some [true, false], data := [7, 8] }] ∧
    (after (.hfwd 0 (15 :: 0 :: fwdPayload none none none)) readHeld).hold.slots[15].last = .forwarded ∧
    answer (.hfwd 0 (15 :: 0 :: fwdPayload (some 127) none none)) writeHeld = some (.invalid, []) ∧
    answer (.hfwd 0 (15 :: 0 :: fwdPayload none none (some []))) writeHeld = some (.badLength, [2]) ∧
    answer (.hfwd 0 (15 :: 0 :: fwdPayload none (some []) none)) readHeld = some (.invalid, []) :=
  ⟨accepts_idle rfl rfl, by unfold oneBlock; decide, by unfold oneBlock; decide, by decide +kernel⟩

/-- The third renewal succeeds and the fourth is LIMIT (R42, R79). -/
theorem test_hrenew :
    Accepts readHeld ∧ (deferred (readReq 31 0 8)).renewals = 2 ∧ answer (.hrenew 0 [15, 0]) readHeld = some (.done, [0xFF, 0xFF, 3]) ∧
    answer (.hrenew 0 [15, 0]) (place part 15 { deferred (readReq 31 0 8) with renewals := 3, deadline := some 258 } false) =
      some (.limit, [2, 1, 3]) := ⟨accepts_idle rfl rfl, by decide +kernel⟩

/-- Window 0's chain with a WRITE held for DEFER at its head and a READ of a given decision behind it. -/
def chain (g : Ruling) (rest : List (Fin 32)) : State :=
  { place (place part 15 (deferred (writeReq 31 0 [1, 2])) true) 3 (heldWith (readReq 4 0 8) .order g none .none) true with
    chains := Vector.replicate 24 [] |>.set 0 (31 :: 4 :: rest) }

theorem test_chain_witness :
    Accepts (chain .pass [9]) ∧ Decides (chain .pass [9]) 15 0 (deferred (writeReq 31 0 [1, 2])) ∧ (chain .pass [9]).host.stalled = none ∧
    (chain .pass [9]).chains[0] = [31, 4, 9] ∧
    (chain .pass [9]).host.tags[31] = some { place := .held 15, window := some 0, member := true } ∧
    (chain .pass [9]).host.tags[4] = some { place := .held 3, window := some 0, member := true } ∧
    (chain .pass [9]).hold.slots[3].hold = some (heldWith (readReq 4 0 8) .order .pass none .none) ∧
    (after (.hdone 0 [15, 0]) (chain .pass [9])).chains[0] = [4, 9] ∧
    (after (.hdone 0 [15, 0]) (chain .pass [9])).issue.queue.map (fun e => e.tag) = [4] := ⟨accepts_idle rfl rfl, by unfold Decides; decide +kernel⟩

theorem test_chain_rulings :
    ((after (.hdone 0 [15, 0]) (chain .defer [])).hold.slots[3].hold.map fun h => (h.reason, h.deadline)) = some (.defer, some 65535) ∧
    part.image.isLoading 1 = true ∧ (after (.hdone 0 [15, 0]) (chain (.serve 1 0) [])).image.segments[1].waiting = [3] ∧
    (after (.hdone 0 [15, 0]) (chain .deny [])).host.sent.map (fun r => r.status) = [.ok, .refused] ∧
    (after (.hdone 0 [15, 0]) (chain .discard [])).host.sent.map (fun r => r.status) = [.ok, .ok] ∧
    (after (.hdone 0 [15, 0]) (chain (.serve 0 24) [])).host.sent.map (fun r => r.data) = [[], [0, 0, 0, 0, 0, 0, 0, 0xBB]] := by
  decide +kernel

/-- Window 0's chain behind a head of a given op held for DEFER: a DENY, a SERVE past the segment's end, a SERVE WRITE and a PASS. -/
def longChain (r : HostRequest) : State :=
  let x (b : State) (k : Fin 16) (q : HostRequest) (g : Ruling) := place b k (heldWith q .order g none .none) true
  { x (x (x (x (place part 15 (deferred r) true) 3 (readReq 4 0 8) .deny) 4 (readReq 5 0 8) (.serve 0 25)) 6
      (writeReq 6 0 [7, 8]) (.serve 0 30)) 5 (readReq 7 0 8) .pass with
    chains := (Vector.replicate 24 []).set 0 [31, 4, 5, 6, 7, 9] }

/-- A head whose memory response is awaited under memory tag 0. -/
def forwardedHead : State :=
  { longChain (readReq 31 0 8) with
    hold := { part.hold with slots := (longChain (readReq 31 0 8)).hold.slots.set 15 part.hold.slots[15] }
    host := busyTag (longChain (readReq 31 0 8)).host 31 (.forwarded 0) (some 0) true
    issue := { part.issue with forward := part.issue.forward.set 0 (.busy 31 .read 1 0) } }

theorem test_heads :
    Heads (longChain (readReq 31 0 8)) 0 31 [4, 5, 6, 7, 9] ∧ Heads (longChain (writeReq 31 0 [1])) 0 31 [4, 5, 6, 7, 9] ∧
    Heads forwardedHead 0 31 [4, 5, 6, 7, 9] ∧ forwardedHead.host.stalled = none ∧
    (∀ i ∈ [Instr.hdata 0 (15 :: 0 :: List.replicate 8 1), .hrefuse 0 [15, 0, 1], .expiry 15],
      (after i (outOfChain (longChain (readReq 31 0 8)) 31)).host.tags[31] = none) ∧
    (after (.hdone 0 [15, 0]) (outOfChain (longChain (writeReq 31 0 [1])) 31)).host.tags[31] = none ∧
    (after (.memoryResponse ⟨0, 0, [1]⟩) (outOfChain forwardedHead 31)).host.tags[31] = none :=
  ⟨⟨by decide +kernel, .held 15, by decide +kernel⟩, ⟨by decide +kernel, .held 15, by decide +kernel⟩,
    ⟨by decide +kernel, .forwarded 0, by decide +kernel⟩,
    by decide +kernel⟩

theorem test_rules_on :
    RulesOn (longChain (readReq 31 0 8)) 31 (.hdata 0 (15 :: 0 :: List.replicate 8 1)) ∧
    RulesOn (longChain (readReq 31 0 8)) 31 (.hrefuse 0 [15, 0, 1]) ∧ RulesOn (longChain (readReq 31 0 8)) 31 (.expiry 15) ∧
    RulesOn (longChain (writeReq 31 0 [1])) 31 (.hdone 0 [15, 0]) ∧ RulesOn forwardedHead 31 (.memoryResponse ⟨0, 0, [1]⟩) :=
  ⟨⟨15, rfl, _, rfl, rfl⟩, ⟨15, rfl, _, rfl, rfl⟩, ⟨_, rfl, rfl⟩, ⟨15, rfl, _, rfl, rfl⟩, ⟨_, _, _, rfl⟩⟩

/-- The members behind an expired head and behind a memory response: REFUSED, FAULT with RANGE, OK with its bytes stored, and the
PASS queued, which stays the head (R61, R62). -/
theorem test_long_cascade :
    (after (.expiry 15) (longChain (readReq 31 0 8))).host.sent.map (fun r => (r.tag, r.status)) =
      [(31, .expired), (4, .refused), (5, .fault), (6, .ok)] ∧
    (after (.expiry 15) (longChain (readReq 31 0 8))).chains[0] = [7, 9] ∧
    readBytes (after (.expiry 15) (longChain (readReq 31 0 8))).image.bytes 30 2 = [7, 8] ∧
    (after (.expiry 15) (longChain (readReq 31 0 8))).notices.entries.map (fun n => n.detail.kind) = [.expiry, .imageFault] ∧
    (after (.memoryResponse ⟨0, 0, [1]⟩) forwardedHead).host.sent.map (fun r => r.tag) = [31, 4, 5, 6] ∧
    (after (.memoryResponse ⟨0, 0, [1]⟩) forwardedHead).hold.slots[5].last = .passed := by decide +kernel

def stalledOn (r : HostRequest) : State := { full with host := { full.host with stalled := some r } }

theorem test_stall_ends :
    Accepts (stalledOn (readReq 2 512 8)) ∧ Decides (stalledOn (readReq 2 512 8)) 15 0 (deferred (readReq 31 0 8)) ∧
    (∀ e ∈ (stalledOn (readReq 2 512 8)).host.tags[31], e.member = false) ∧ (∀ j : Fin 16, full.hold.slots[j].hold ≠ none) ∧
    full.host.tags[2] = none ∧ malformed (readReq 2 512 8) = false ∧ malformed (readReq 2 0 8) = false ∧
    full.windows.matched 512 = none ∧ full.windows.straddles none 512 8 = false ∧
    (after (.hrefuse 0 [15, 0, 1]) (stalledOn (readReq 2 512 8))).host.stalled = none ∧
    (after (.hrefuse 0 [15, 0, 1]) (stalledOn (readReq 2 512 8))).issue.queue.map (fun e => e.tag) = [2] ∧
    full.windows.matched 0 = some 0 ∧ full.windows.straddles (some 0) 0 8 = false ∧
    ((after (.hrefuse 0 [15, 0, 1]) (stalledOn (readReq 2 0 8))).hold.slots[15].hold.map fun h => h.req.tag) = some 2 :=
  ⟨accepts_idle rfl rfl, by unfold Decides; decide +kernel⟩

/-- Events that free a slot of a STALLED part, and one that frees none (R32, R148). -/
theorem test_stall_general :
    (∀ j : Fin 16, full.hold.slots[j].hold ≠ none) ∧ full.resetn = .high ∧ full.host.stalled = none ∧
    (∀ i ∈ [Instr.expiry 15, .hfwd 0 [15, 0, 0], .hrefuse 0 [15, 0, 1]],
      i.wellFormed = true ∧ (after i full).hold.slots[15].hold = none) ∧
    (after .clearallCompletion (busy (.clearall 6) full)).hold.slots[0].hold = none ∧
    (after (.expiry 15) (stalledOn (readReq 2 512 8))).issue.queue.map (fun e => e.tag) = [2] ∧
    (after .clearallCompletion (busy (.clearall 6) (stalledOn (readReq 2 512 8)))).host.stalled = none ∧
    (∀ j : Fin 16, (after (.nfetch 0 []) full).hold.slots[j].hold ≠ none) ∧
    (after (.nfetch 0 []) (stalledOn (readReq 2 512 8))).host.stalled = some (readReq 2 512 8) := by decide +kernel

theorem test_expiry :
    readHeld.resetn = .high ∧ readHeld.hold.slots[15].hold = some (deferred (readReq 31 0 8)) ∧ readHeld.host.stalled = none ∧
    (after (.expiry 15) readHeld).host.sent = [{ tag := 31, status := .expired, data := [] }] ∧
    (after (.expiry 15) readHeld).notices.entries.map (fun n => (n.seq, n.detail.kind)) = [(0, .expiry)] ∧
    (after (.expiry 15) (place part 15
      { deferred (readReq 31 0 8) with decision := { (deferred (readReq 31 0 8)).decision with expiryAction := .forward } } false)).issue.queue.map
        (fun e => e.tag) = [31] ∧
    after (.expiry 0) readHeld = readHeld ∧ after (.expiry 0) undecided = undecided := by decide +kernel

/-! ### Notices -/

theorem test_nfetch :
    Accepts readHeld ∧ answer (.nfetch 0 []) part = some (.empty, [0, 0]) ∧ readHeld.notices.presented = false ∧
    (answer (.nfetch 0 []) readHeld).map (fun x => x.1) = some .done ∧
    ((after (.nfetch 0 []) readHeld).hold.slots[15].hold.map fun h => h.notice) = some .presented ∧
    (after (.nfetch 0 []) readHeld).notices.presented = true ∧ answer (.nfetch 0 [0]) part = some (.invalid, []) :=
  ⟨accepts_idle rfl rfl, by decide +kernel⟩

/-- A head whose hold is gone, and one of another kind, presented and not. -/
def noticed (d : Detail) (p : Bool) : State :=
  { readHeld with notices := { entries := [{ seq := 0xFFFF, count := 1, detail := d }], presented := p, counter := 0, attn := true } }

theorem test_nack :
    Accepts (noticed (.trip 3) true) ∧ answer (.nack 0 [0xFF, 0xFF]) (noticed (.trip 3) true) = some (.done, [0]) ∧
    (after (.nack 0 [0xFF, 0xFF]) (noticed (.trip 3) true)).notices.attn = false ∧
    ((after (.nack 0 [0xFF, 0xFF]) (noticed (holdNotice 15 0 (readReq 31 0 8)) true)).hold.slots[15].hold.map fun h => h.notice) = some .none ∧
    (after (.nack 0 [0xFF, 0xFF]) (noticed (holdNotice 15 1 (readReq 31 0 8)) true)).hold = readHeld.hold ∧
    (after (.nfetch 0 []) (noticed (holdNotice 15 1 (readReq 31 0 8)) false)).hold = readHeld.hold ∧
    answer (.nack 0 [0xFE, 0xFF]) (noticed (.trip 3) true) = some (.mismatch, [0xFF, 0xFF, 2]) ∧
    answer (.nack 0 [0xFF, 0xFF]) (noticed (.trip 3) false) = some (.mismatch, [0xFF, 0xFF, 1]) ∧
    answer (.nack 0 [0, 0]) part = some (.mismatch, [0, 0, 0]) ∧ answer (.nack 0 [0]) part = some (.invalid, []) :=
  ⟨accepts_idle rfl rfl, by decide +kernel⟩

/-- A merge at the saturated count, and a withdrawal that renumbers the entry behind it (R91, R93). -/
theorem test_notices :
    (({ entries := [{ seq := 4, count := 255, detail := .trip 1 }], presented := false, counter := 5, attn := true } : NoticeQueue).post
      (.trip 2)).entries = [{ seq := 4, count := 255, detail := .trip 1 }] ∧
    (({ entries := [{ seq := 4, count := 1, detail := .trip 1 }], presented := true, counter := 5, attn := true } : NoticeQueue).post
      (.trip 2)).entries.map (fun n => n.seq) = [4, 5] ∧
    ((readHeld.notices.append (.trip 1)).withdraw 15).entries = [{ seq := 0, count := 1, detail := .trip 1 }] ∧
    (readHeld.notices.append (.trip 1)).unpresented =
      [] ++ { seq := 0, count := 1, detail := holdNotice 15 0 (readReq 31 0 8) } :: [{ seq := 1, count := 1, detail := .trip 1 }] := by
  decide +kernel

/-- A HOLD is appended behind an unpresented HOLD, under the next number (R90). -/
theorem test_holds_do_not_merge :
    Detail.kind (.trip 1) ≠ .hold ∧
    (readHeld.notices.append (holdNotice 14 9 (readReq 1 0 8))).entries.map (fun n => (n.seq, n.count)) = [(0, 1), (1, 1)] := by
  decide +kernel

/-- A MEMORY_FAULT's record byte by byte (R193). -/
theorem test_notice_record :
    ({ seq := 0x0102, count := 3, detail := .memoryFault 5 (.orphan 0xA1B2C3D4E5) } : Notice).encode =
      [0x02, 0x01, 0x08, 3, 5, 0x01, 0xE5, 0xD4, 0xC3, 0xB2, 0xA1, 0x40, 0, 0] := by decide +kernel

/-- An older HOLD of the same slot and use, presented and acknowledged, leaves the newer hold's notice state at NONE; the newer notice is
withdrawn all the same when the slot is freed (R49, R93, R98). -/
theorem test_reused_use_number :
    let s := { readHeld with
      notices := { (({ part.notices with presented := true }.append (holdNotice 15 0 (readReq 2 8 8))).append
        (holdNotice 15 0 (readReq 31 0 8))) with presented := true } }
    let t := after (.nack 0 [0, 0]) s
    (t.hold.slots[15].hold.map fun h => h.notice) = some .none ∧ t.notices.entries.length = 1 ∧
    (after (.hdata 0 (15 :: 0 :: List.replicate 8 6)) t).notices.entries = [] := by decide +kernel

/-! ### The image store -/

theorem test_geometry_witness : part.image.Geometry ∧ Memory.wf part.image.bytes = true := by decide +kernel

/-- An EMPTY segment at the store's end; an overlap; a reload; another geometry; a LOADING segment; a range one granule too far. -/
theorem test_sload :
    Accepts part ∧ ((after (.sload 0 (15 :: (le 2 16376 ++ le 2 8))) part).image.segments[15].live.map fun l => (l.state, l.base)) =
      some (.loading, 16376) ∧
    answer (.sload 0 (15 :: (le 2 24 ++ le 2 16))) part = some (.geometry, 0 :: (le 2 0 ++ le 2 32)) ∧
    ((after (.sload 0 (0 :: (le 2 0 ++ le 2 32))) part).image.segments[0].live.map fun l => (l.state, l.cursor)) = some (.loading, 0) ∧
    answer (.sload 0 (2 :: (le 2 64 ++ le 2 40))) part = some (.geometry, 2 :: (le 2 64 ++ le 2 32)) ∧
    answer (.sload 0 (1 :: (le 2 32 ++ le 2 8))) part = some (.wrongState, [1]) ∧
    answer (.sload 0 (15 :: (le 2 16376 ++ le 2 16))) part = some (.invalid, []) ∧ answer (.sload 0 (15 :: (le 2 8 ++ le 2 0))) part = some (.invalid, []) ∧
    answer (.sload 0 (16 :: (le 2 16376 ++ le 2 8))) part = some (.invalid, []) :=
  ⟨test_part_accepts, by decide +kernel⟩

/-- Segment 15 at the end of the store, its cursor at a value. -/
def loading (c : Nat) : State :=
  { part with
    image := part.image.setLive 15 (some { state := .loading, base := 16384 - 136, length := 136, cursor := c }) }

theorem test_sdata :
    Accepts (loading 8) ∧ (loading 8).image.Geometry ∧ Memory.wf (loading 8).image.bytes = true ∧
    answer (.sdata 0 (16 :: (le 2 8 ++ [1]))) (loading 8) = some (.invalid, []) ∧
    answer (.sdata 0 (15 :: (le 2 8 ++ List.replicate 128 1))) (loading 8) = some (.done, [136, 0]) ∧
    byteAt (after (.sdata 0 (15 :: (le 2 8 ++ List.replicate 128 1))) (loading 8)).image.bytes 16383 = 1 ∧
    answer (.sdata 0 (15 :: (le 2 9 ++ [1]))) (loading 8) = some (.sequence, [8, 0]) ∧
    answer (.sdata 0 (15 :: (le 2 9 ++ List.replicate 128 1))) (loading 9) = some (.badLength, [9, 0]) ∧
    answer (.sdata 0 (0 :: (le 2 32 ++ [1]))) part = some (.wrongState, [2]) ∧ answer (.sdata 0 (3 :: (le 2 0 ++ [1]))) part = some (.wrongState, [0]) ∧
    answer (.sdata 0 (2 :: (le 2 0 ++ [1]))) part = some (.wrongState, [3]) ∧ answer (.sdata 0 (15 :: (le 2 16384 ++ [1]))) part = some (.invalid, []) :=
  ⟨accepts_idle rfl rfl, by decide +kernel⟩

theorem test_scheck :
    Accepts part ∧ (after (.scheck 4 (1 :: le 4 7)) part).port.phase = .busy (.scheck 4 1 7) ∧
    answer (.scheck 4 (15 :: le 4 7)) (loading 8) = some (.incomplete, [8, 0]) ∧ answer (.scheck 4 (0 :: le 4 7)) part = some (.wrongState, [2]) ∧
    answer (.scheck 4 (2 :: le 4 7)) part = some (.wrongState, [3]) ∧ answer (.scheck 4 (3 :: le 4 7)) part = some (.wrongState, [0]) ∧
    answer (.scheck 4 (16 :: le 4 7)) part = some (.invalid, []) := ⟨test_part_accepts, by decide +kernel⟩

/-- The CRC-32 of the eight zero bytes of segment 1. -/
def zeroCrc : Word32 := crc32 (List.replicate 8 0)

theorem test_scheck_completion :
    (busy (.scheck 4 1 zeroCrc) part).port.phase = .busy (.scheck 4 1 zeroCrc) ∧
    part.image.segments[1].live = some { state := .loading, base := 32, length := 8, cursor := 8 } ∧ part.image.segments[1].waiting = [] ∧
    answer .scheckCompletion (busy (.scheck 4 1 zeroCrc) part) = some (.done, 2 :: (le 4 zeroCrc.toNat ++ [0])) ∧
    answer .scheckCompletion (busy (.scheck 4 1 0) part) = some (.done, 3 :: (le 4 zeroCrc.toNat ++ [0])) ∧ zeroCrc ≠ 0 := by
  decide +kernel

/-- A READ of 8 bytes that waits for segment 1, from an offset. -/
def waiting (x : Nat) : State :=
  { place part 15 (heldWith (readReq 31 384 8) .imageWait (.serve 1 x) (some 9) .none) false with
    image := part.image.setWaiting 1 [15] }

theorem test_ready_serves :
    Plain (busy (.scheck 4 1 zeroCrc) (waiting 0)) 31 ∧ (waiting 0).image.segments[1].waiting = [15] ∧
    (waiting 0).hold.slots[15].hold = some (heldWith (readReq 31 384 8) .imageWait (.serve 1 0) (some 9) .none) ∧
    (after .scheckCompletion (busy (.scheck 4 1 zeroCrc) (waiting 0))).host.sent =
      [{ tag := 31, status := .ok, data := List.replicate 8 0 }] ∧
    (after .scheckCompletion (busy (.scheck 4 1 zeroCrc) (waiting 1))).host.sent = [{ tag := 31, status := .fault, data := [] }] :=
  ⟨⟨rfl, by decide +kernel⟩, by decide +kernel⟩

/-- A READ, a WRITE and a READ past the end that wait for segment 1, oldest first, slot by slot downwards. -/
def waitingThree : State :=
  let x (b : State) (k : Fin 16) (r : HostRequest) (n : Nat) := place b k (heldWith r .imageWait (.serve 1 n) (some 9) .none) false
  { x (x (x part 15 (writeReq 31 384 [5, 6]) 2) 14 (readReq 30 384 8) 0) 13 (readReq 29 384 8) 1 with
    image := part.image.setWaiting 1 [15, 14, 13] }

/-- The second member reads what the first wrote, and the third is past the end; with another CRC each is FAULT (R116, R126). -/
theorem test_wait_list :
    (busy (.scheck 4 1 zeroCrc) waitingThree).port.phase = .busy (.scheck 4 1 zeroCrc) ∧ waitingThree.host.stalled = none ∧
    (∀ t : Fin 32, ∀ e ∈ waitingThree.host.tags[t], e.member = false) ∧ ([15, 14, 13] : List (Fin 16)).Nodup ∧
    waitingThree.image.segments[1].waiting = [15, 14, 13] ∧
    (∀ k ∈ waitingThree.image.segments[1].waiting, ∃ h ∈ waitingThree.hold.slots[k].hold,
      h.decision.ruling = .serve 1 (match k with | 15 => 2 | 14 => 0 | _ => 1)) ∧
    (after .scheckCompletion (busy (.scheck 4 1 zeroCrc) waitingThree)).host.sent =
      [{ tag := 31, status := .ok, data := [] }, { tag := 30, status := .ok, data := [0, 0, 5, 6, 0, 0, 0, 0] },
       { tag := 29, status := .fault, data := [] }] ∧
    answer .scheckCompletion (busy (.scheck 4 1 0) waitingThree) = some (.done, 3 :: (le 4 zeroCrc.toNat ++ [3])) ∧
    (after .scheckCompletion (busy (.scheck 4 1 0) waitingThree)).host.sent.map (fun r => (r.tag, r.status)) =
      [(31, .fault), (30, .fault), (29, .fault)] := by decide +kernel

/-- The first waiter heads a chain, whose member is answered before the second waiter (R63). -/
def waitingHead : State :=
  { place waitingThree 3 (heldWith (readReq 4 0 8) .order .deny none .none) true with
    host := busyTag (place waitingThree 3 (heldWith (readReq 4 0 8) .order .deny none .none) true).host 31 (.held 15) (some 0) true
    chains := part.chains.set 0 [31, 4] }

theorem test_wait_list_chain :
    Heads waitingHead 0 31 [4] ∧ waitingHead.image.segments[1].waiting ≠ [] ∧
    (after (.sabort 0 [1]) waitingHead).host.sent.map (fun r => (r.tag, r.status)) =
      [(31, .fault), (4, .refused), (30, .fault), (29, .fault)] ∧
    answer (.sfree 0 [1]) { waitingHead with windows := State.reset.windows } = some (.done, [3]) :=
  ⟨⟨by decide +kernel, .held 15, by decide +kernel⟩, by decide +kernel⟩

theorem test_abort_and_free :
    Accepts (waiting 0) ∧ (waiting 0).host.stalled = none ∧ (∀ t : Fin 32, ∀ e ∈ (waiting 0).host.tags[t], e.member = false) ∧
    ((waiting 0).image.segments[1].waiting).Nodup ∧
    (∀ k ∈ (waiting 0).image.segments[1].waiting,
      (waiting 0).hold.slots[k].hold = some (heldWith (readReq 31 384 8) .imageWait (.serve 1 0) (some 9) .none)) ∧
    answer (.sabort 0 [1]) (waiting 0) = some (.done, [1]) ∧ (after (.sabort 0 [1]) (waiting 0)).hold.slots[15].last = .refused ∧
    answer (.sfree 0 [2]) part = some (.done, [0]) ∧ (after (.sfree 0 [2]) part).image.segments[2].live = none ∧
    (∀ i : Fin 24, part.windows.staged[i].refersTo 2 = false ∧ part.windows.active[i].refersTo 2 = false) ∧
    ((after (.sfree 0 [1]) { waiting 0 with windows := State.reset.windows }).notices.entries.map fun n => n.detail) = [.imageFault 1 .freed] :=
  ⟨accepts_idle rfl rfl, by decide +kernel⟩

theorem test_abort_and_free_refused :
    Accepts part ∧ answer (.sabort 0 [0]) part = some (.wrongState, [2]) ∧ answer (.sabort 0 [15]) part = some (.wrongState, [0]) ∧
    answer (.sfree 0 [0]) part = some (.inUse, [0, 2]) ∧ answer (.sfree 0 [0]) (after (.wclear 0 [2]) part) = some (.inUse, [1, 2]) ∧
    answer (.sfree 0 [15]) part = some (.done, [0]) ∧ answer (.sabort 0 [16]) part = some (.invalid, []) ∧ answer (.sfree 0 [16]) part = some (.invalid, []) :=
  ⟨test_part_accepts, by decide +kernel⟩

theorem test_sread :
    Accepts part ∧ answer (.sread 0 [0, 31, 0, 1]) part = some (.done, [0xBB]) ∧ answer (.sread 0 [0, 31, 0, 2]) part = some (.badLength, [32, 0]) ∧
    answer (.sread 0 [3, 0xFF, 0x3F, 128]) part = some (.wrongState, [0]) ∧ answer (.sread 0 [0, 0, 0, 129]) part = some (.invalid, []) ∧
    answer (.sread 0 [0, 0, 0, 0]) part = some (.invalid, []) ∧ answer (.sread 0 [0, 0, 0x40, 1]) part = some (.invalid, []) :=
  ⟨test_part_accepts, by decide +kernel⟩

theorem test_sinfo_and_status :
    Accepts (waiting 0) ∧ answer (.sinfo 0 [1]) (waiting 0) = some (.done, [1, 1, 32, 0, 8, 0, 8, 0, 1, 15, 0]) ∧
    answer (.sinfo 0 [15]) part = some (.done, [15, 0, 0, 0, 0, 0, 0, 0, 0]) ∧ answer (.sinfo 0 [16]) part = some (.invalid, []) ∧
    answer (.status 0 []) (waiting 0) = some (.done, [0, 0x3F, 0, 0, 0, 1, 0, 0, 0, 0, 0, 0, 0, 0]) :=
  ⟨accepts_idle rfl rfl, by decide +kernel⟩

/-! ### Admission -/

/-- A busy tag, a length of 0, a block crossed by one byte, a window's end crossed, a remapped block crossed, and a default match that
reaches into a window (R7, R8, R139, R140). -/
theorem test_offer_checks :
    readHeld.host.stalled = none ∧ readHeld.host.tags[31].isSome = true ∧
    (after (.hostOffer (readReq 31 0 8)) readHeld).notices.entries.length = 2 ∧ part.host.tags[0] = none ∧
    (after (.hostOffer (readReq 0 0 0)) part).host.sent = [{ tag := 0, status := .fault, data := [] }] ∧
    ((after (.hostOffer (readReq 0 1 128)) part).notices.entries.map fun n => n.detail) = [.reqError 0 1 .malformed] ∧
    ((after (.hostOffer (readReq 0 60 8)) part).notices.entries.map fun n => n.detail) = [.reqError 0 60 .straddle] ∧
    ((after (.hostOffer (readReq 0 288 64)) part).notices.entries.map fun n => n.detail) = [.reqError 0 288 .straddle] ∧
    ((after (.hostOffer (readReq 0 60 8)) { part with windows := { part.windows with active := table.set 0 {} } }).notices.entries.map
      fun n => n.detail) = [.reqError 0 60 .straddle] := by decide +kernel

theorem test_offered :
    Offered part (readReq 0 192 8) (some 3) ∧ Offered part (writeReq 0 192 [1]) (some 3) ∧ Offered part (readReq 0 64 8) (some 1) ∧
    Offered part (readReq 0 448 8) none ∧ Offered part (readReq 0 128 8) (some 2) ∧ Offered part (writeReq 0 128 [1]) (some 2) ∧
    Offered part (readReq 0 128 33) (some 2) ∧ Offered part (readReq 0 0 64) (some 0) ∧ Offered part (readReq 0 384 8) (some 5) := by
  unfold Offered
  decide +kernel

theorem test_dispatch :
    part.windows.active[1].ordered = true ∧ part.chains[1] = [] ∧
    (after (.hostOffer (readReq 0 192 8)) part).host.sent.map (fun r => r.status) = [.refused] ∧
    (after (.hostOffer (writeReq 0 192 [1])) part).host.sent.map (fun r => r.status) = [.ok] ∧
    (after (.hostOffer (readReq 0 64 8)) part).chains[1] = [0] ∧
    (after (.hostOffer (readReq 0 448 8)) part).issue.queue.map (fun e => e.addr) = [448] ∧
    ((after (.hostOffer (readReq 0 448 8))
      { part with windows := { part.windows with activeDefault := { readPolicy := .deny, writePolicy := .discard } } }).host.sent.map
        fun r => r.status) = [.refused] := by decide +kernel

/-- The active table of the manual's matching examples (spec/01, Matching examples). -/
def exampleTable : State :=
  { State.reset with
    windows :=
      { State.reset.windows with
        active :=
          ((((Vector.replicate 24 {}).set 0
            { window 0xF040 .defer .defer with size := 0x380, timeoutClass := 1 }).set 5
            { window 0x20000 .serve .discard with
              size := 0x10000, segment := some ⟨3, 0x800⟩, timeoutClass := 2, expiryAction := .forward }).set 9
            { window 0x100000 .pass .pass with size := 0x100000, remap := some 0x40000000 })
        activeDefault := { readPolicy := .pass, writePolicy := .deny } } }

/-- The decisions and outcomes that the manual writes out for that table: a remapped PASS, a held DEFER, a SERVE, a DISCARD under FORWARD,
and a request that leaves its window (R6 to R11). -/
theorem test_matching_examples :
    Offered exampleTable (readReq 0 0x180040 64) (some 9) ∧
    (after (.hostOffer (readReq 0 0x180040 64)) exampleTable).issue.queue.map (fun e => e.addr) = [0x40080040] ∧
    (after (.hostOffer (readReq 0 0xF050 8)) exampleTable).hold.slots[0].hold.map (fun h => h.decision) =
      some { window := 0, ruling := .defer, downstream := 0xF050, timeoutClass := 1, expiryAction := .expire } ∧
    exampleTable.windows.decide 5 (readReq 0 0x20100 16) =
      { window := 5, ruling := .serve 3 0x900, downstream := 0x20100, timeoutClass := 2, expiryAction := .forward } ∧
    exampleTable.windows.decide 5 { writeReq 0 0x20100 [] with len := 16, data := List.replicate 16 0 } =
      { window := 5, ruling := .discard, downstream := 0x20100, timeoutClass := 2, expiryAction := .forward } ∧
    ((after (.hostOffer (readReq 0 0xF3B0 32)) exampleTable).notices.entries.map fun n => n.detail) = [.reqError 0 0xF3B0 .straddle] ∧
    exampleTable.windows.active[5].base.toNat ≤ (readReq 0 0x20100 16).addr.toNat := by
  unfold Offered
  decide +kernel

theorem test_served :
    part.windows.active[2].segment = some ⟨0, 0⟩ ∧
    (after (.hostOffer (readReq 0 152 8)) part).host.sent.map (fun r => r.data) = [[0, 0, 0, 0, 0, 0, 0, 0xBB]] ∧
    readBytes (after (.hostOffer { writeReq 0 128 [1, 2] with mask := some [false, true] }) part).image.bytes 0 2 = [0xAA, 2] ∧
    ((after (.hostOffer (readReq 0 128 33)) part).notices.entries.map fun n => n.detail) = [.imageFault 0 .range] ∧
    ((after (.hostOffer (readReq 0 128 8)) { part with image := part.image.setLive 0 none }).notices.entries.map fun n => n.detail) =
      [.imageFault 0 .failed] := by decide +kernel

theorem test_lowest_free : LowestFree part 0 ∧ LowestFree (place part 0 (deferred (readReq 31 0 8)) false) 1 := by
  unfold LowestFree
  decide +kernel

def chained : State := { part with chains := part.chains.set 1 [7] }

theorem test_slots_taken :
    Offered chained (writeReq 0 64 [1]) (some 1) ∧ chained.windows.active[1].ordered = true ∧ chained.chains[1] ≠ [] ∧
    ((after (.hostOffer (writeReq 0 64 [1])) chained).hold.slots[0].hold.map fun h => (h.reason, h.deadline)) = some (.order, none) ∧
    (after (.hostOffer (writeReq 0 64 [1])) chained).chains[1] = [7, 0] ∧
    ((after (.hostOffer (readReq 0 0 8)) part).hold.slots[0].hold.map fun h => (h.reason, h.deadline)) = some (.defer, some 100) ∧
    (after (.hostOffer (readReq 0 0 8)) part).notices.attn = true ∧
    (after (.hostOffer (readReq 0 384 8)) part).image.segments[1].waiting = [0] :=
  ⟨by unfold Offered; decide +kernel, by decide +kernel⟩

/-- The three needs of a slot while every slot is HELD, and an offer to a STALLED link (R12, R146, R147). -/
theorem test_stalls :
    Offered full (readReq 0 0 8) (some 0) ∧ Offered full (readReq 0 384 8) (some 5) ∧
    Offered { full with chains := full.chains.set 1 [7] } (readReq 0 64 8) (some 1) ∧
    (after (.hostOffer (readReq 0 0 8)) full).host.stalled = some (readReq 0 0 8) ∧
    (after (.hostOffer (readReq 0 384 8)) full).host.stalled = some (readReq 0 384 8) ∧
    (after (.hostOffer (readReq 0 64 8)) { full with chains := full.chains.set 1 [7] }).host.stalled = some (readReq 0 64 8) ∧
    ((after (.hostOffer (readReq 0 0 8)) full).notices.entries.map fun n => n.detail) = [.holdFull 0 0] ∧
    after (.hostOffer (readReq 1 192 8)) (stalledOn (readReq 0 0 8)) = stalledOn (readReq 0 0 8) := by
  unfold Offered
  decide +kernel

def tripping : State :=
  { part with
    windows :=
      { part.windows with
        active := table.set 0 { window 0 .defer .defer with trip := some ⟨1, .deny, .discard⟩ }
        tripRemaining := (Vector.replicate 24 0).set 0 1 } }

/-- The last counted request fires the trip (R13, R14). -/
theorem test_trip :
    tripping.windows.tripRemaining[0] = 1 ∧ (tripping.countAccepted 0 .read).windows.active[0].writePolicy = .discard ∧
    (tripping.countAccepted 0 .read).windows.tripped[0] = true ∧
    (part.countAccepted 0 .read).windows.readsMatched[0] = 1 ∧ (part.countAccepted 0 .read).notices = part.notices := by decide +kernel

/-! ### The memory link -/

/-- One request queued under host tag 4, memory tag 0 BUSY and memory tag 15 ORPHAN. -/
def issuing : State :=
  { part with
    issue :=
      { queue := [issueEntry (readReq 4 512 8) 512]
        forward := ((Vector.replicate 16 .free).set 0 (.busy 3 .read 2 448)).set 15 (.orphan .write 2 448)
        sent := [] }
    host :=
      { part.host with
        tags := ((Vector.replicate 32 none).set 3 (some { place := .forwarded 0, window := none, member := false })).set 4
          (some { place := .queued, window := none, member := false }) } }

theorem test_grant :
    issuing.resetn = .high ∧ issuing.issue.queue = [issueEntry (readReq 4 512 8) 512] ∧ issuing.issue.forward[1] = .free ∧
    (∀ j : Fin 16, j < 1 → issuing.issue.forward[j] ≠ .free) ∧
    (after .grant issuing).issue.sent.map (fun r => r.tag) = [1] ∧
    (after .grant issuing).host.tags[4] = some { place := .forwarded 1, window := none, member := false } ∧
    part.issue.queue = [] ∧ after .grant part = part ∧
    after .grant { issuing with issue := { issuing.issue with forward := Vector.replicate 16 (.orphan .read 1 0) } } =
      { issuing with issue := { issuing.issue with forward := Vector.replicate 16 (.orphan .read 1 0) } } := by decide +kernel

theorem test_memory_response :
    issuing.issue.forward[2] = .free ∧ issuing.issue.forward[0] = .busy 3 .read 2 448 ∧ (∀ e ∈ issuing.host.tags[3], e.member = false) ∧
    (after (.memoryResponse ⟨0, 0, [8, 9]⟩) issuing).host.sent = [{ tag := 3, status := .ok, data := [8, 9] }] ∧
    (after (.memoryResponse ⟨0, 0, [8]⟩) issuing).host.sent = [{ tag := 3, status := .fault, data := [] }] ∧
    ((after (.memoryResponse ⟨0, 3, []⟩) issuing).notices.entries.map fun n => n.detail) = [.memoryFault 0 (.hostTag 3 448)] ∧
    ((after (.memoryResponse ⟨2, 0, []⟩) issuing).notices.entries.map fun n => n.detail) = [.memoryFault 2 .unexpected] ∧
    issuing.issue.forward[15] = .orphan .write 2 448 ∧ (after (.memoryResponse ⟨15, 0, []⟩) issuing).notices = issuing.notices ∧
    ((after (.memoryResponse ⟨15, 1, []⟩) issuing).notices.entries.map fun n => n.detail) = [.memoryFault 15 (.orphan 448)] := by
  decide +kernel

theorem test_link_reset :
    readHeld.resetn = .high ∧ (after .hostLinkReset readHeld).hold.slots[15] = { use := 1, last := .reset, hold := none } ∧
    (after .hostLinkReset readHeld).notices.entries = [{ seq := 0, count := 1, detail := .linkReset 1 0 }] ∧
    (after .hostLinkReset issuing).issue.forward[0] = .orphan .read 2 448 := by decide +kernel

theorem test_clearall_completion :
    (busy (.clearall 6) readHeld).resetn = .high ∧ (busy (.clearall 6) readHeld).port.phase = .busy (.clearall 6) ∧
    (busy (.clearall 6) readHeld).host.stalled = none ∧
    (after .clearallCompletion (busy (.clearall 6) readHeld)).host.sent = [{ tag := 31, status := .refused, data := [] }] ∧
    (after .clearallCompletion (busy (.clearall 6) readHeld)).image = State.reset.image ∧
    answer .clearallCompletion (busy (.clearall 6) readHeld) = some (.done, [1]) := by decide +kernel

/-- A chain whose head is in slot 15 and whose member is in slot 3, and a request in slot 5: the chain comes at slot 3 (R52). -/
def clearing : State :=
  { place (place (place part 15 (deferred (readReq 31 0 8)) true) 3 (heldWith (readReq 4 0 8) .order .pass none .none) true) 5
      (deferred (readReq 9 0 8)) false with
    chains := part.chains.set 0 [31, 4] }

theorem test_clearall_order :
    (after .clearallCompletion (busy (.clearall 6) clearing)).host.sent.map (fun r => r.tag) = [31, 4, 9] ∧
    answerPlace clearing 15 = (3, 0) ∧ answerPlace clearing 3 = (3, 1) ∧ answerPlace clearing 5 = (5, 0) := by decide +kernel

/-! ### The laws hold of states that are not the reset state -/

theorem test_notices_lawful :
    readHeld.notices.Lawful ∧ readHeld.notices.entries ≠ [] ∧ readHeld.HoldNoticesLawful ∧
    readHeld.notices.unpresented.filterMap Notice.named = [(15, 0)] := by
  have h : readHeld.notices.unpresented.filterMap Notice.named = [(15, 0)] := rfl
  refine ⟨by decide +kernel, by decide +kernel, ⟨by rw [h]; decide, ?_⟩, h⟩
  rw [h]
  intro x hx
  obtain rfl := List.mem_singleton.mp hx
  exact ⟨rfl, _, rfl, rfl⟩

theorem test_windows_lawful : part.windows.Lawful ∧ part.ServedSegmentsLive := by decide +kernel

theorem test_holds_lawful : readHeld.hold.Lawful ∧ (waiting 0).hold.Lawful := by decide +kernel

/-- A state with nothing issued and no wait list is lawful where its decidable parts are. -/
theorem traffic_lawful_of_no_forward {s : State} (hf : ∀ m : Fin 16, s.issue.forward[m] = .free)
    (hp : ∀ t : Fin 32, ∀ x ∈ s.host.tags[t], ∀ m, x.place ≠ .forwarded m)
    (hw : ∀ g : Fin 16, s.image.segments[g].waiting = [])
    (hr : ∀ k : Fin 16, ∀ h ∈ s.hold.slots[k].hold, h.reason ≠ .imageWait) (hq : s.issue.queue = [])
    (hn : ∀ t : Fin 32, ∀ x ∈ s.host.tags[t], x.place ≠ .queued)
    (hh : ∀ t : Fin 32, ∀ k : Fin 16, (∃ x ∈ s.host.tags[t], x.place = .held k) ↔ ∃ h ∈ s.hold.slots[k].hold, h.req.tag = t)
    (hc : s.ChainsLawful) (hl : s.hold.Lawful) : s.TrafficLawful := by
  refine ⟨⟨by rw [hq]; exact List.nodup_nil, fun t => ?_, fun t m => ?_, hh⟩, hc, ⟨fun g => ?_, fun g h => absurd (hw g) h, fun g k => ?_⟩, hl⟩
  · rw [hq]
    exact ⟨fun ⟨_, h, _⟩ => absurd h List.not_mem_nil, fun ⟨x, hx, h⟩ => absurd h (hn t x hx)⟩
  · rw [hf m]
    exact ⟨fun ⟨x, hx, h⟩ => absurd h (hp t x hx m), False.elim⟩
  · rw [hw g]
    exact List.nodup_nil
  · rw [hw g]
    exact ⟨fun h => absurd h List.not_mem_nil, fun ⟨h, hk, hx, _⟩ => absurd hx (hr k h hk)⟩

theorem test_traffic_lawful : readHeld.TrafficLawful ∧ (busy (.clearall 6) clearing).TrafficLawful :=
  ⟨traffic_lawful_of_no_forward (by decide +kernel) (by decide +kernel) (by decide +kernel) (by decide +kernel) rfl (by decide +kernel)
    (by decide +kernel) (by decide +kernel) (by decide +kernel),
   traffic_lawful_of_no_forward (by decide +kernel) (by decide +kernel) (by decide +kernel) (by decide +kernel) rfl (by decide +kernel)
    (by decide +kernel) (by decide +kernel) (by decide +kernel)⟩

theorem test_stall_lawful : (stalledOn (readReq 2 0 8)).StallLawful := by decide +kernel

theorem test_port_lawful : (busy (.scheck 4 1 0) part).PortLawful ∧ (busy (.scheck 4 1 0) part).PinLawful :=
  ⟨⟨_, rfl, rfl, rfl⟩, fun h => by cases h⟩

end Sys2Proof.Tests
end

section
/-! The window table's law is kept by every move, and so by every step (R1, R14, R17, R26). -/

namespace Sys2Proof.Machine

/-- The two laws about windows: the table's own, and that of the segments its windows serve (R1, R17, R26). -/
abbrev State.WindowsSafe (s : State) : Prop := s.windows.Lawful ∧ s.ServedSegmentsLive

/-! ### Windows and the segments they name -/

/-- A window names an EMPTY segment only where it uses SERVE, of no segment or of one without geometry (R17). -/
theorem namesEmpty_eq_false {m : ImageStore} {r : WindowRecord} :
    m.namesEmpty r = false ↔
      (r.usesServe = true → ∃ g, r.segment = some g ∧ m.segments[g.segment].live.isSome = true) := by
  unfold ImageStore.namesEmpty
  cases r.usesServe <;> cases r.segment <;> simp

/-- A store in which the same segments at least are not EMPTY leaves a window's segment not EMPTY. -/
theorem namesEmpty_of_live {m m' : ImageStore} {r : WindowRecord}
    (hl : ∀ g : Fin 16, m.segments[g].live.isSome = true → m'.segments[g].live.isSome = true)
    (h : m.namesEmpty r = false) : m'.namesEmpty r = false := by
  rw [namesEmpty_eq_false] at h ⊢
  intro hu
  obtain ⟨g, hg, hs⟩ := h hu
  exact ⟨g, hg, hl g.segment hs⟩

/-- An update that leaves the windows and empties no segment keeps both laws. -/
theorem windowsSafe_of_live {s t : State} (h : s.WindowsSafe) (hw : t.windows = s.windows)
    (hl : ∀ g : Fin 16, s.image.segments[g].live.isSome = true → t.image.segments[g].live.isSome = true) :
    t.WindowsSafe := by
  obtain ⟨hlaw, hserved⟩ := h
  refine ⟨hw ▸ hlaw, fun i => ?_⟩
  rw [hw]
  obtain ⟨hst, hac⟩ := hserved i
  exact ⟨fun he => namesEmpty_of_live hl (hst he), fun he => namesEmpty_of_live hl (hac he)⟩

/-- An update of other blocks keeps both laws. -/
theorem windowsSafe_of_eq {s t : State} (h : s.WindowsSafe) (hw : t.windows = s.windows) (hi : t.image = s.image) :
    t.WindowsSafe :=
  windowsSafe_of_live h hw fun _ hg => hi ▸ hg

/-- A window table written is safe where it is lawful and its enabled windows name no EMPTY segment. -/
theorem windowsSafe_setWindows {s : State} {t : WindowTable} (hlaw : t.Lawful)
    (hst : ∀ i : Fin 24, t.staged[i].enabled = true → s.image.namesEmpty t.staged[i] = false)
    (hac : ∀ i : Fin 24, t.active[i].enabled = true → s.image.namesEmpty t.active[i] = false) :
    (s.setWindows t).WindowsSafe :=
  ⟨hlaw, fun i => ⟨hst i, hac i⟩⟩

/-- A segment's geometry after one segment's is replaced. -/
theorem setLive_live (m : ImageStore) (g j : Fin 16) (l : Option Live) :
    (m.setLive g l).segments[j].live = if g = j then l else m.segments[j].live := by
  simp only [ImageStore.setLive]
  rw [table_set_get]
  split <;> rfl

/-- A segment given a geometry is not EMPTY, and the others are as they were. -/
theorem setLive_some_isSome (m : ImageStore) (g : Fin 16) (l : Live) (j : Fin 16) (h : m.segments[j].live.isSome = true) :
    (m.setLive g (some l)).segments[j].live.isSome = true := by
  rw [setLive_live]
  split
  · rfl
  · exact h

/-- A replaced wait list leaves every segment's geometry. -/
theorem setWaiting_live (m : ImageStore) (g j : Fin 16) (l : List (Fin 16)) :
    (m.setWaiting g l).segments[j].live = m.segments[j].live := by
  simp only [ImageStore.setWaiting]
  rw [table_set_get]
  split
  · rename_i h
    rw [h]
  · rfl

/-- A window refers to the segment it serves from (R17). -/
theorem refersTo_of_serves {r : WindowRecord} {g : SegmentRef} (he : r.enabled = true) (hu : r.usesServe = true)
    (hg : r.segment = some g) : r.refersTo g.segment = true := by
  simp [WindowRecord.refersTo, he, hu, hg]

/-- sfree finds no window exactly where none refers to the segment (R119). -/
theorem firstReferring_none {t : WindowTable} {g : Fin 16} (h : t.firstReferring g = none) (i : Fin 24) :
    t.staged[i].refersTo g = false ∧ t.active[i].refersTo g = false := by
  unfold WindowTable.firstReferring at h
  split at h
  · rename_i hf
    simpa using findFin_none.mp hf i
  · cases h

/-- A segment that an enabled window does not refer to may become EMPTY (R17, R119). -/
theorem namesEmpty_drop {m : ImageStore} {r : WindowRecord} {g : Fin 16} (he : r.enabled = true)
    (hr : r.refersTo g = false) (h : m.namesEmpty r = false) : (m.setLive g none).namesEmpty r = false := by
  rw [namesEmpty_eq_false] at h ⊢
  intro hu
  obtain ⟨x, hx, hs⟩ := h hu
  have hne : g ≠ x.segment := by
    rintro rfl
    rw [refersTo_of_serves he hu hx] at hr
    cases hr
  refine ⟨x, hx, ?_⟩
  rw [setLive_live, if_neg hne]
  exact hs

/-! ### Records of R1 -/

/-- A record of R1 is sound as an active one. -/
theorem WindowRecord.sound_of_valid {r : WindowRecord} (h : r.valid = true) : r.Sound := by
  simp only [WindowRecord.valid, Bool.and_eq_true, decide_eq_true_eq] at h
  obtain ⟨⟨⟨⟨⟨hrange, hremap⟩, hread⟩, hpair⟩, hseg⟩, htrip⟩ := h
  refine ⟨hrange, hremap, hread, fun hu => hpair.trans hu, fun g hg => ?_, fun f hf => ?_⟩
  · rw [Option.mem_def.mp hg] at hseg
    simpa using hseg
  · rw [Option.mem_def.mp hf] at htrip
    simpa [and_assoc] using htrip

/-- Disabling a record leaves it a record of R1. -/
theorem WindowRecord.valid_disabled (r : WindowRecord) : WindowRecord.valid { r with enabled := false } = r.valid := rfl

/-- The fallback policies of a trip that fires (R14). -/
def WindowRecord.fallenBack (r : WindowRecord) : WindowRecord :=
  match r.trip with
  | none => r
  | some f => { r with readPolicy := f.readFallback, writePolicy := f.writeFallback }

/-- The fallback policies are among the four that SERVE is looked for in, so a tripped record serves only where it did before. -/
theorem WindowRecord.usesServe_of_fallenBack {r : WindowRecord} (h : r.fallenBack.usesServe = true) : r.usesServe = true := by
  cases ht : r.trip with
  | none => simpa [fallenBack, ht] using h
  | some f =>
    simp only [fallenBack, ht, usesServe, Bool.or_eq_true, decide_eq_true_eq] at h ⊢
    tauto

theorem WindowRecord.sound_fallenBack {r : WindowRecord} (h : r.Sound) : r.fallenBack.Sound := by
  obtain ⟨hrange, hremap, hread, hserve, hseg, htrip⟩ := h
  have hs : r.fallenBack.usesServe = true → r.segment.isSome = true := fun hu => hserve (usesServe_of_fallenBack hu)
  cases hf : r.trip with
  | none =>
    rw [show r.fallenBack = r by simp only [fallenBack, hf]]
    exact ⟨hrange, hremap, hread, hserve, hseg, htrip⟩
  | some f =>
    have he : r.fallenBack = { r with readPolicy := f.readFallback, writePolicy := f.writeFallback } := by
      simp only [fallenBack, hf]
    rw [he] at hs ⊢
    obtain ⟨-, -, hfall⟩ := htrip f hf
    exact ⟨hrange, hremap, hfall, hs, hseg, htrip⟩

/-- A trip leaves everything of a record but its two policies. -/
theorem WindowRecord.fallenBack_fields (r : WindowRecord) :
    r.fallenBack.enabled = r.enabled ∧ r.fallenBack.base = r.base ∧ r.fallenBack.size = r.size ∧
    r.fallenBack.trip = r.trip ∧ r.fallenBack.segment = r.segment := by
  unfold fallenBack
  split <;> exact ⟨rfl, rfl, rfl, rfl, rfl⟩

theorem namesEmpty_fallenBack {m : ImageStore} {r : WindowRecord} (h : m.namesEmpty r = false) :
    m.namesEmpty r.fallenBack = false := by
  rw [namesEmpty_eq_false] at h ⊢
  intro hu
  rw [r.fallenBack_fields.2.2.2.2]
  exact h (WindowRecord.usesServe_of_fallenBack hu)

/-! ### Counting a trip (R13, R14) -/

/-- What counting a trip writes: trip remaining, and at the last one counted the record and tripped (R13, R14). -/
theorem countTrip_eq (t : WindowTable) (w : Fin 24) :
    t.countTrip w =
      { t with
        tripRemaining := t.tripRemaining.set w (t.tripRemaining[w] - 1)
        active := if t.tripRemaining[w] = 1 then t.active.set w t.active[w].fallenBack else t.active
        tripped := if t.tripRemaining[w] = 1 then t.tripped.set w true else t.tripped } := by
  by_cases h0 : t.tripRemaining[w] = 0
  · have hset : t.tripRemaining.set w (t.tripRemaining[w] - 1) = t.tripRemaining := by
      rw [show t.tripRemaining[w] - 1 = t.tripRemaining[w] by omega, table_set_self]
    rw [hset]
    simp only [WindowTable.countTrip, h0, if_true, Nat.zero_ne_one, if_false]
  · by_cases h1 : t.tripRemaining[w] = 1
    · simp only [WindowTable.countTrip, if_neg h0, if_pos h1]
      rfl
    · simp only [WindowTable.countTrip, if_neg h0, if_neg h1]

/-- The active record at an index after a trip is counted. -/
theorem countTrip_active (t : WindowTable) (w i : Fin 24) :
    (t.countTrip w).active[i] = t.active[i] ∨ (t.countTrip w).active[i] = t.active[i].fallenBack := by
  simp only [countTrip_eq]
  split
  · by_cases h : w = i
    · subst h
      exact .inr (table_set_get_self _ _ _)
    · exact .inl (table_set_get_ne _ _ h)
  · exact .inl rfl

/-- The statistics are apart from everything that the law of the table speaks of. -/
theorem countMatch_fields (t : WindowTable) (w : Fin 24) (o : Op) :
    (t.countMatch w o).staged = t.staged ∧ (t.countMatch w o).active = t.active ∧
    (t.countMatch w o).stagedDefault = t.stagedDefault ∧ (t.countMatch w o).activeDefault = t.activeDefault ∧
    (t.countMatch w o).tripRemaining = t.tripRemaining := by
  cases o <;> exact ⟨rfl, rfl, rfl, rfl, rfl⟩


/-! ### The moves of the window table -/

/-- The law of the table with every active record as it was or fallen back, and no trip remaining raised (R13, R14). -/
theorem windowTable_lawful_count {t : WindowTable} (w : Fin 24) (o : Op) (h : t.Lawful) :
    ((t.countTrip w).countMatch w o).Lawful := by
  obtain ⟨hstaged, hsound, hapart, htrip, hsd, had⟩ := h
  obtain ⟨es, ea, esd, ead, et⟩ := countMatch_fields (t.countTrip w) w o
  have hb : ∀ i : Fin 24, (t.countTrip w).active[i].Sound ∧
      (t.countTrip w).active[i].enabled = t.active[i].enabled ∧ (t.countTrip w).active[i].base = t.active[i].base ∧
      (t.countTrip w).active[i].size = t.active[i].size ∧ (t.countTrip w).active[i].trip = t.active[i].trip := by
    intro i
    obtain ⟨he, hba, hsz, htr, -⟩ := t.active[i].fallenBack_fields
    rcases countTrip_active t w i with e | e <;> rw [e]
    · exact ⟨hsound i, rfl, rfl, rfl, rfl⟩
    · exact ⟨WindowRecord.sound_fallenBack (hsound i), he, hba, hsz, htr⟩
  have hr : ∀ i : Fin 24, (t.countTrip w).tripRemaining[i] ≤ t.tripRemaining[i] := by
    intro i
    simp only [countTrip_eq]
    rw [table_set_get]
    split
    · rename_i e
      rw [e]
      exact Nat.sub_le _ _
    · exact Nat.le_refl _
  unfold WindowTable.Lawful
  rw [es, ea, esd, ead, et]
  refine ⟨?_, fun i => (hb i).1, fun i j hij hi hj => ?_, fun i => ?_, ?_, ?_⟩
  · simpa only [countTrip_eq] using hstaged
  · obtain ⟨-, hei, hbi, hsi, -⟩ := hb i
    obtain ⟨-, hej, hbj, hsj, -⟩ := hb j
    rw [WindowRecord.overlaps, hbi, hsi, hbj, hsj]
    exact hapart i j hij (hei ▸ hi) (hej ▸ hj)
  · obtain ⟨-, -, -, -, htr⟩ := hb i
    obtain ⟨hle, hpos⟩ := htrip i
    rw [htr]
    exact ⟨(hr i).trans hle, fun hp => hpos (hp.trans_le (hr i))⟩
  · simpa only [countTrip_eq] using hsd
  · simpa only [countTrip_eq] using had

theorem windowsSafe_count {s : State} (w : Fin 24) (o : Op) (h : s.WindowsSafe) :
    (s.setWindows ((s.windows.countTrip w).countMatch w o)).WindowsSafe := by
  obtain ⟨hlaw, hserved⟩ := h
  obtain ⟨es, ea, -, -, -⟩ := countMatch_fields (s.windows.countTrip w) w o
  refine windowsSafe_setWindows (windowTable_lawful_count w o hlaw) (fun i => ?_) fun i he => ?_
  · rw [es]
    simpa only [countTrip_eq] using (hserved i).1
  · rw [ea] at he ⊢
    rcases countTrip_active s.windows w i with e | e <;> rw [e] at he ⊢
    · exact (hserved i).2 he
    · obtain ⟨hen, -⟩ := s.windows.active[i].fallenBack_fields
      exact namesEmpty_fallenBack ((hserved i).2 (hen ▸ he))

/-- A record of R1 staged, enabled only where its segment is not EMPTY (R18). -/
theorem windowsSafe_stage {s : State} (w : Fin 24) {r : WindowRecord} (hv : r.valid = true)
    (he : r.enabled = true → s.image.namesEmpty r = false) (h : s.WindowsSafe) :
    (s.setWindows { s.windows with staged := s.windows.staged.set w r }).WindowsSafe := by
  obtain ⟨⟨hstaged, hrest⟩, hserved⟩ := h
  have hset : ∀ i : Fin 24, (s.windows.staged.set w r)[i] = if w = i then r else s.windows.staged[i] :=
    fun i => table_set_get _ _ _ _
  refine windowsSafe_setWindows ⟨fun i => ?_, hrest⟩ (fun i hi => ?_) fun i => (hserved i).2
  · rw [hset]
    split
    · exact hv
    · exact hstaged i
  · rw [hset] at hi ⊢
    by_cases e : w = i
    · rw [if_pos e] at hi ⊢
      exact he hi
    · rw [if_neg e] at hi ⊢
      exact (hserved i).1 hi

/-- What a commit whose staged windows all pass finds of each enabled one (R25). -/
theorem lowestFailing_none {s : State} (h : s.lowestFailing = none) (i : Fin 24)
    (he : s.windows.staged[i].enabled = true) :
    s.image.namesEmpty s.windows.staged[i] = false ∧
    ∀ j : Fin 24, j ≠ i → s.windows.staged[j].enabled = true →
      s.windows.staged[i].overlaps s.windows.staged[j] = false := by
  have hf := findFin_none.mp h i
  simp only [State.failsCommit, he, Bool.true_and, Bool.or_eq_false_iff, List.any_eq_false, List.mem_finRange,
    Bool.and_eq_true, decide_eq_true_eq, true_implies] at hf
  obtain ⟨⟨⟨-, hover⟩, hname⟩, -⟩ := hf
  refine ⟨hname, fun j hj => ?_⟩
  simpa [hj] using hover j

theorem windowsSafe_commit {s : State} (hp : s.lowestFailing = none) (h : s.WindowsSafe) :
    (s.setWindows s.windows.committed).WindowsSafe := by
  obtain ⟨⟨hstaged, -, -, -, hsd, -⟩, hserved⟩ := h
  have hsound : ∀ i : Fin 24, s.windows.staged[i].Sound := fun i => WindowRecord.sound_of_valid (hstaged i)
  refine windowsSafe_setWindows
    ⟨hstaged, hsound, fun i j hij hi hj => (lowestFailing_none hp i hi).2 j hij.symm hj, fun i => ?_, hsd, hsd⟩
    (fun i => (hserved i).1) fun i => (hserved i).1
  dsimp only [WindowTable.committed]
  rw [tableMap_get]
  obtain ⟨-, -, -, -, -, htrip⟩ := hsound i
  cases ht : s.windows.staged[i].trip with
  | none => simp
  | some f =>
    obtain ⟨-, hle, -⟩ := htrip f ht
    exact ⟨hle, fun _ => rfl⟩

/-- The windows of the power-on state are lawful, whatever the image store holds: none is enabled (R27). -/
theorem windows_lawful_reset : State.reset.windows.Lawful := by decide +kernel

/-- A state whose windows are all disabled serves from no segment (R17). -/
theorem servedSegmentsLive_of_disabled {s : State}
    (h : ∀ i : Fin 24, s.windows.staged[i].enabled = false ∧ s.windows.active[i].enabled = false) : s.ServedSegmentsLive :=
  fun i => ⟨fun he => absurd he (by rw [(h i).1]; decide), fun he => absurd he (by rw [(h i).2]; decide)⟩

theorem windows_disabled_reset (i : Fin 24) :
    State.reset.windows.staged[i].enabled = false ∧ State.reset.windows.active[i].enabled = false := by
  simp [State.reset]

/-- Every move keeps the table's law and its segments not EMPTY. -/
theorem move_keeps_windowsSafe {s t : State} (hm : Move s t) (h : s.WindowsSafe) : t.WindowsSafe := by
  cases hm with
  | host | issue | chains | port | pending | post | present | remove | clear | freeQuiet | order | defer | renew | mark
  | elapse | timeout | timeouts => exact windowsSafe_of_eq h rfl rfl
  | free k o =>
    unfold State.freeSlot
    split
    · exact h
    · exact windowsSafe_of_eq h rfl rfl
  | wait k x g =>
    refine windowsSafe_of_live h rfl fun j hj => ?_
    rw [State.holdImageWait, State.setImage_image, setWaiting_live]
    exact hj
  | bytes a r => exact windowsSafe_of_live h rfl fun _ hj => hj
  | waits m _ hl =>
    refine windowsSafe_of_live h rfl fun j hj => ?_
    rw [State.setImage_image, hl]
    exact hj
  | load g | data g | judge g => exact windowsSafe_of_live h rfl fun j hj => setLive_some_isSome _ g _ j hj
  | drop g hg =>
    obtain ⟨hlaw, hserved⟩ := h
    refine ⟨hlaw, fun i => ⟨fun he => ?_, fun he => ?_⟩⟩
    · exact namesEmpty_drop he (firstReferring_none hg i).1 ((hserved i).1 he)
    · exact namesEmpty_drop he (firstReferring_none hg i).2 ((hserved i).2 he)
  | stage w r hv he => exact windowsSafe_stage w hv he h
  | unstage w => exact windowsSafe_stage w (h.1.1 w) (fun he => by cases he) h
  | stageDefault d hd =>
    obtain ⟨⟨hstaged, hsound, hapart, htrip, -, had⟩, hserved⟩ := h
    exact ⟨⟨hstaged, hsound, hapart, htrip, hd, had⟩, hserved⟩
  | statistics x y =>
    obtain ⟨hlaw, hserved⟩ := h
    exact ⟨hlaw, hserved⟩
  | count w o => exact windowsSafe_count w o h
  | commit hp => exact windowsSafe_commit hp h
  | clearWindows => exact ⟨windows_lawful_reset, servedSegmentsLive_of_disabled windows_disabled_reset⟩
  | clearImage hd => exact ⟨h.1, servedSegmentsLive_of_disabled hd⟩
  | power l => exact ⟨windows_lawful_reset, servedSegmentsLive_of_disabled windows_disabled_reset⟩

/-- Settles O55: a step is a sequence of moves, and each keeps both laws. -/
theorem windowsStayLawful : Obligations.WindowsStayLawful := by
  intro s t hlaw hserved hstep
  exact Moves.keeps (fun _ _ hm h => move_keeps_windowsSafe hm h) (step_moves hstep) ⟨hlaw, hserved⟩

end Sys2Proof.Machine
end

section
/-! The 26 bytes of a window record: what is written is read back, and only that (R187, R191). -/

namespace Sys2Proof.Machine

/-! ### Numbers and codes -/

/-- Bytes spell a number below 256 to their count (R187). -/
theorem fromLE_lt (b : List Byte) : fromLE b < 256 ^ b.length := by
  induction b with
  | nil => simp [fromLE]
  | cons x rest ih =>
    have hx := x.isLt
    simp only [fromLE, List.length_cons, pow_succ]
    omega

/-- The number that bytes spell is written as those bytes (R187). -/
theorem le_fromLE (b : List Byte) : le b.length (fromLE b) = b := by
  induction b with
  | nil => rfl
  | cons x rest ih =>
    have hx := x.isLt
    have hdiv : (x.toNat + 256 * fromLE rest) / 256 = fromLE rest := by omega
    have hbyte : BitVec.ofNat 8 (x.toNat + 256 * fromLE rest) = x := by
      apply BitVec.eq_of_toNat_eq
      rw [BitVec.toNat_ofNat]
      omega
    simp only [fromLE, List.length_cons, le, hdiv, hbyte, ih]

theorem Policy.ofCode_eq_some {b : Byte} {p : Policy} : Policy.ofCode b = some p ↔ b = p.code := by
  constructor
  · intro h
    unfold Policy.ofCode at h
    split at h
    · cases h; assumption
    · split at h
      · cases h; assumption
      · split at h
        · cases h; assumption
        · split at h
          · cases h; assumption
          · split at h
            · cases h; assumption
            · cases h
  · rintro rfl
    cases p <;> rfl

theorem Policy.ofReadCode_eq_some {b : Byte} {p : Policy} :
    Policy.ofReadCode b = some p ↔ b = p.code ∧ p ≠ .discard := by
  have hd : ∀ q : Policy, q.code = 0x04 ↔ q = .discard := by intro q; cases q <;> decide
  unfold Policy.ofReadCode
  rw [Option.ite_none_left_eq_some, Policy.ofCode_eq_some]
  constructor
  · rintro ⟨hb, rfl⟩
    exact ⟨rfl, fun h => hb ((hd p).mpr h)⟩
  · rintro ⟨rfl, hp⟩
    exact ⟨fun h => hp ((hd p).mp h), rfl⟩

/-- The six flags of a window record are the low bits of its first byte, and its two top bits are clear. -/
theorem packByte_bits (a b c d e f : Bool) :
    let x := packByte [a, b, c, d, e, f]
    x.getLsbD 0 = a ∧ x.getLsbD 1 = b ∧ x.getLsbD 2 = c ∧ x.getLsbD 3 = d ∧ x.getLsbD 4 = e ∧ x.getLsbD 5 = f ∧
    x.getLsbD 6 = false ∧ x.getLsbD 7 = false := by
  revert a b c d e f
  decide

/-- A byte whose two top bits are clear is its six low bits. -/
theorem packByte_of_bits (x : Byte) (h6 : x.getLsbD 6 = false) (h7 : x.getLsbD 7 = false) :
    packByte [x.getLsbD 0, x.getLsbD 1, x.getLsbD 2, x.getLsbD 3, x.getLsbD 4, x.getLsbD 5] = x := by
  revert x
  decide

/-! ### The fields that go together -/

theorem tripOfBytes_eq_some {here : Bool} {fr fw : Byte} {n : Nat} {t : Option TripRecord} :
    tripOfBytes here fr fw n = some t ↔
      here = t.isSome ∧ fr = (t.map fun f => f.readFallback.code).getD 0 ∧
      fw = (t.map fun f => f.writeFallback.code).getD 0 ∧ n = (t.map fun f => f.count).getD 0 ∧
      ∀ f ∈ t, f.readFallback ≠ .discard := by
  unfold tripOfBytes
  constructor
  · intro h
    split at h
    · split at h
      · rename_i hh _ _ r w hr hw
        obtain ⟨rfl, hd⟩ := Policy.ofReadCode_eq_some.mp hr
        obtain rfl := Policy.ofCode_eq_some.mp hw
        cases h
        exact ⟨hh, rfl, rfl, rfl, fun f hf => by cases hf; exact hd⟩
      · cases h
    · rename_i hh
      split at h
      · rename_i h0
        obtain ⟨rfl, rfl, rfl⟩ := h0
        cases h
        exact ⟨by simpa using hh, rfl, rfl, rfl, fun f hf => by cases hf⟩
      · cases h
  · rintro ⟨rfl, rfl, rfl, rfl, hd⟩
    cases t with
    | none => rfl
    | some f =>
      have hr : Policy.ofReadCode f.readFallback.code = some f.readFallback :=
        Policy.ofReadCode_eq_some.mpr ⟨rfl, hd f rfl⟩
      have hw : Policy.ofCode f.writeFallback.code = some f.writeFallback := Policy.ofCode_eq_some.mpr rfl
      simp only [Option.isSome_some, if_true, Option.map_some, Option.getD_some, hr, hw]

theorem segmentOfBytes_eq_some {here : Bool} {b : Byte} {n : Nat} {g : Option SegmentRef} :
    segmentOfBytes here b n = some g ↔
      here = g.isSome ∧ b = (g.map fun x => indexByte x.segment).getD 0 ∧ n = (g.map fun x => x.offset).getD 0 := by
  unfold segmentOfBytes
  constructor
  · intro h
    split at h
    · rename_i hh
      obtain ⟨i, hi, rfl⟩ := Option.map_eq_some_iff.mp h
      exact ⟨hh, eq_indexByte hi, rfl⟩
    · rename_i hh
      split at h
      · rename_i h0
        obtain ⟨rfl, rfl⟩ := h0
        cases h
        exact ⟨by simpa using hh, rfl, rfl⟩
      · cases h
  · rintro ⟨rfl, rfl, rfl⟩
    cases g with
    | none => rfl
    | some x =>
      simp only [Option.isSome_some, if_true, Option.map_some, Option.getD_some,
        indexOf_indexByte (show 16 ≤ 256 by omega)]

theorem remapOfBytes_eq_some {here : Bool} {n : Nat} {a : Option Addr} (hn : n < 2 ^ 40) :
    remapOfBytes here n = some a ↔ here = a.isSome ∧ n = (a.map fun x => x.toNat).getD 0 := by
  unfold remapOfBytes
  constructor
  · intro h
    split at h
    · rename_i hh
      cases h
      exact ⟨hh, (Nat.mod_eq_of_lt hn).symm⟩
    · rename_i hh
      split at h
      · rename_i h0
        cases h
        exact ⟨by simpa using hh, h0⟩
      · cases h
  · rintro ⟨rfl, rfl⟩
    cases a with
    | none => rfl
    | some x => simp

/-! ### The record -/

/-- The numbers of a record of R1 fit their bytes (R191). -/
theorem WindowRecord.fields_fit {r : WindowRecord} (h : r.valid = true) :
    r.size % 64 = 0 ∧ r.size / 64 < 256 ^ 5 ∧ (r.segment.map fun g => g.offset).getD 0 < 256 ^ 2 ∧
    (r.trip.map fun f => f.count).getD 0 < 256 ^ 2 := by
  obtain ⟨hrange, -, -, -, hseg, htrip⟩ := sound_of_valid h
  simp only [rangeOk, Bool.and_eq_true, decide_eq_true_eq] at hrange
  simp only [Config.granule, Config.addressSpace] at hrange
  obtain ⟨⟨⟨-, hmod⟩, -⟩, hend⟩ := hrange
  refine ⟨hmod, by omega, ?_, ?_⟩
  · cases hg : r.segment with
    | none => simp
    | some g =>
      have := (hseg g hg).2
      simp only [Option.map_some, Option.getD_some]
      omega
  · cases hf : r.trip with
    | none => simp
    | some f =>
      have := (htrip f hf).2.1
      simp only [Option.map_some, Option.getD_some]
      omega

/-- A record of R1 is read back from its 26 bytes (R191). -/
theorem WindowRecord.decode_encode {r : WindowRecord} (h : r.valid = true) : decode r.encode = some r := by
  obtain ⟨-, -, hread, -, -, htrip⟩ := sound_of_valid h
  obtain ⟨hmod, hsize, hoff, hcount⟩ := fields_fit h
  obtain ⟨b0, b1, b2, b3, b4, b5, b6, b7⟩ :=
    packByte_bits r.enabled r.ordered (r.expiryAction = .forward) r.remap.isSome r.segment.isSome r.trip.isSome
  have hbase : BitVec.ofNat 40 (fromLE (le 5 r.base.toNat)) = r.base := by
    rw [fromLE_le 5 _ (by have := r.base.isLt; omega), BitVec.ofNat_toNat, BitVec.setWidth_eq]
  have hsz : Config.granule * fromLE (le 5 (r.size / Config.granule)) = r.size := by
    simp only [Config.granule]
    rw [fromLE_le 5 _ hsize]
    omega
  have hrm : (r.remap.map fun a => a.toNat).getD 0 < 2 ^ 40 := by
    cases r.remap with
    | none => simp
    | some a => exact a.isLt
  have hact : (if decide (r.expiryAction = .forward) then ExpiryAction.forward else .expire) = r.expiryAction := by
    cases r.expiryAction <;> rfl
  have h1 : Policy.ofReadCode (r.encode.getD 1 0) = some r.readPolicy := Policy.ofReadCode_eq_some.mpr ⟨rfl, hread⟩
  have h2 : Policy.ofCode (r.encode.getD 2 0) = some r.writePolicy := Policy.ofCode_eq_some.mpr rfl
  have h3 : indexOf 4 (r.encode.getD 5 0) = some r.timeoutClass := indexOf_indexByte (by omega) _
  have h4 : tripOfBytes ((r.encode.getD 0 0).getLsbD 5) (r.encode.getD 3 0) (r.encode.getD 4 0)
      (fromLE ((r.encode.drop 9).take 2)) = some r.trip :=
    tripOfBytes_eq_some.mpr ⟨b5, rfl, rfl, fromLE_le 2 _ hcount, fun f hf => (htrip f hf).2.2⟩
  have h5 : segmentOfBytes ((r.encode.getD 0 0).getLsbD 4) (r.encode.getD 6 0) (fromLE ((r.encode.drop 7).take 2)) =
      some r.segment :=
    segmentOfBytes_eq_some.mpr ⟨b4, rfl, fromLE_le 2 _ hoff⟩
  have hrb : fromLE ((r.encode.drop 21).take 5) = (r.remap.map fun a => a.toNat).getD 0 := fromLE_le 5 _ hrm
  have h6 : remapOfBytes ((r.encode.getD 0 0).getLsbD 3) (fromLE ((r.encode.drop 21).take 5)) = some r.remap :=
    (remapOfBytes_eq_some (hrb ▸ hrm)).mpr ⟨b3, hrb⟩
  have e0 : (r.encode.getD 0 0).getLsbD 0 = r.enabled := b0
  have e1 : (r.encode.getD 0 0).getLsbD 1 = r.ordered := b1
  have e2 : (r.encode.getD 0 0).getLsbD 2 = decide (r.expiryAction = .forward) := b2
  have eb : BitVec.ofNat 40 (fromLE ((r.encode.drop 11).take 5)) = r.base := hbase
  have es : Config.granule * fromLE ((r.encode.drop 16).take 5) = r.size := hsz
  have hlen : r.encode.length = 26 ∧ (r.encode.getD 0 0).getLsbD 6 = false ∧ (r.encode.getD 0 0).getLsbD 7 = false :=
    ⟨rfl, b6, b7⟩
  rw [decode, if_pos hlen]
  simp only [h1, h2, h3, h4, h5, h6, e0, e1, e2, eb, es, hact]
  exact if_pos h

/-- The 26 bytes of a window record's layout, field by field (R191). -/
theorem bytes26_split {b : List Byte} (h : b.length = 26) :
    b = [b.getD 0 0, b.getD 1 0, b.getD 2 0, b.getD 3 0, b.getD 4 0, b.getD 5 0, b.getD 6 0] ++
      (b.drop 7).take 2 ++ (b.drop 9).take 2 ++ (b.drop 11).take 5 ++ (b.drop 16).take 5 ++ (b.drop 21).take 5 := by
  apply List.ext_getElem
  · simp [h]
  · intro i h1 h2
    have : i < 26 := h ▸ h1
    interval_cases i <;> simp [List.getD_eq_getElem?_getD, h]

/-- Bytes of which a record is read are that record's (R191). -/
theorem WindowRecord.encode_of_decode {b : List Byte} {r : WindowRecord} (h : decode b = some r) : b = r.encode := by
  unfold decode at h
  split at h
  · rename_i hb
    obtain ⟨hlen, hb6, hb7⟩ := hb
    have hn : ∀ k n, k + n ≤ 26 → ((b.drop k).take n).length = n := by
      intro k n hk
      rw [List.length_take, List.length_drop, hlen]
      omega
    have hle : ∀ k n, k + n ≤ 26 → le n (fromLE ((b.drop k).take n)) = (b.drop k).take n := by
      intro k n hk
      have := le_fromLE ((b.drop k).take n)
      rwa [hn k n hk] at this
    have hlt : ∀ k, k + 5 ≤ 26 → fromLE ((b.drop k).take 5) < 2 ^ 40 := by
      intro k hk
      have := fromLE_lt ((b.drop k).take 5)
      rwa [hn k 5 hk] at this
    dsimp only at h
    split at h
    · rename_i rp wp cls trip seg remap hrp hwp hcls htrip hseg hremap
      obtain ⟨h1, -⟩ := Policy.ofReadCode_eq_some.mp hrp
      have h2 := Policy.ofCode_eq_some.mp hwp
      have h5 := eq_indexByte hcls
      obtain ⟨f5, h3, h4, h9, -⟩ := tripOfBytes_eq_some.mp htrip
      obtain ⟨f4, h6, h7⟩ := segmentOfBytes_eq_some.mp hseg
      obtain ⟨f3, h21⟩ := (remapOfBytes_eq_some (hlt 21 (by omega))).mp hremap
      have hact : ∀ x : Bool, decide ((if x then ExpiryAction.forward else .expire) = .forward) = x := by decide
      simp only [Option.ite_none_right_eq_some, Option.some.injEq] at h
      obtain ⟨-, rfl⟩ := h
      have h0 := packByte_of_bits (b.getD 0 0) hb6 hb7
      have hsize : Config.granule * fromLE ((b.drop 16).take 5) / Config.granule = fromLE ((b.drop 16).take 5) :=
        Nat.mul_div_cancel_left _ (by decide)
      have hbase : (BitVec.ofNat 40 (fromLE ((b.drop 11).take 5))).toNat = fromLE ((b.drop 11).take 5) := by
        rw [BitVec.toNat_ofNat, Nat.mod_eq_of_lt (hlt 11 (by omega))]
      rw [f5, f4, f3] at h0
      refine (bytes26_split hlen).trans ?_
      simp only [encode, flags, hact, h0, ← h1, ← h2, ← h3, ← h4, ← h5, ← h6, ← h7, ← h9, ← h21, hsize, hbase]
      rw [hle 7 2 (by omega), hle 9 2 (by omega), hle 11 5 (by omega), hle 16 5 (by omega), hle 21 5 (by omega)]
    · cases h
  · cases h

/-- The records of R1 are exactly what 26 bytes spell, each by its own bytes (R191). -/
theorem WindowRecord.decode_eq_some {b : List Byte} {r : WindowRecord} :
    decode b = some r ↔ b = r.encode ∧ r.valid = true :=
  ⟨fun h => ⟨encode_of_decode h, decode_valid h⟩, fun ⟨hb, hv⟩ => hb ▸ decode_encode hv⟩

end Sys2Proof.Machine
end

section
/-! What the window commands answer, payload by payload, and the statements about them (R18 to R24). -/

namespace Sys2Proof.Machine

open Claims

variable (s : State)

/-! ### Command frames that the port handles -/

/-- A command that answers without a change leaves the state, and the port replies (R176, R181). -/
theorem immediate_answers {s : State} (h : Accepts s) (n : Nat) (c : Command) (q : Byte) {body : State → Answer} {r : Result}
    {d : List Byte} (hb : body (s.setPort (handling s.port n)) = (s.setPort (handling s.port n)).answers r d) :
    running s (fun s => s.takeFrame n fun s => s.immediately c q body) =
      .next { s with port := replied s.port n (commandCode c) q r d } :=
  immediate_next (t := s) h n c q body hb

/-- A command that answers by writing the window table, and the port replies. -/
theorem immediate_windows {s : State} (h : Accepts s) (n : Nat) (c : Command) (q : Byte) {body : State → Answer} {r : Result}
    {d : List Byte} {x : WindowTable}
    (hb : body (s.setPort (handling s.port n)) = ⟨r, d, (s.setPort (handling s.port n)).setWindows x⟩) :
    running s (fun s => s.takeFrame n fun s => s.immediately c q body) =
      .next { s with windows := x, port := replied s.port n (commandCode c) q r d } :=
  immediate_next (t := s.setWindows x) h n c q body hb

/-! ### wset (R18) -/

/-- A record of R1 that may be staged: enabled only where its segment is not EMPTY (R17, R18). -/
abbrev Stageable (m : ImageStore) (r : WindowRecord) : Prop :=
  r.valid = true ∧ (r.enabled = true → m.namesEmpty r = false)

theorem wsetBody_staged (w : Fin 24) {r : WindowRecord} (h : Stageable s.image r) :
    wsetBody (indexByte w :: r.encode) s =
      { result := .done, payload := []
        after := s.setWindows { s.windows with staged := s.windows.staged.set w r } } := by
  obtain ⟨hv, he⟩ := h
  have hn : (r.enabled && s.image.namesEmpty r) = false := by
    cases hen : r.enabled with
    | false => rfl
    | true => exact he hen
  simp only [wsetBody, indexOf_indexByte (show 24 ≤ 256 by omega), WindowRecord.decode_encode hv, hn, Bool.false_eq_true,
    if_false]

theorem wsetBody_invalid {p : List Byte}
    (h : ¬ ∃ (w : Fin 24) (r : WindowRecord), p = indexByte w :: r.encode ∧ Stageable s.image r) :
    wsetBody p s = s.answers .invalid [] := by
  unfold wsetBody
  split
  · rfl
  · split
    · rename_i w r hw hr
      obtain ⟨hb, hv⟩ := WindowRecord.decode_eq_some.mp hr
      split
      · rfl
      · rename_i hn
        refine absurd ⟨w, r, by rw [eq_indexByte hw, hb], hv, fun he => ?_⟩ h
        simpa [he] using hn
    · rfl

/-! ### wclear and wdefault (R19, R20) -/

theorem wclearBody_index (w : Fin 24) :
    wclearBody [indexByte w] s =
      { result := .done, payload := []
        after := s.setWindows
          { s.windows with staged := s.windows.staged.set w { s.windows.staged[w] with enabled := false } } } := by
  simp only [wclearBody, indexOf_indexByte (show 24 ≤ 256 by omega)]

theorem wclearBody_invalid {p : List Byte} (h : ∀ w : Fin 24, p ≠ [indexByte w]) : wclearBody p s = s.answers .invalid [] := by
  unfold wclearBody
  split
  · split
    · rename_i w hw
      exact absurd (by rw [eq_indexByte hw]) (h w)
    · rfl
  · rfl

theorem DefaultPolicy.ofCode_eq_some {b : Byte} {p : DefaultPolicy} : DefaultPolicy.ofCode b = some p ↔ b = p.code := by
  constructor
  · intro h
    unfold DefaultPolicy.ofCode at h
    split at h
    · cases h; assumption
    · split at h
      · cases h; assumption
      · split at h
        · cases h; assumption
        · cases h
  · rintro rfl
    cases p <;> rfl

theorem DefaultPolicy.ofReadCode_eq_some {b : Byte} {p : DefaultPolicy} :
    DefaultPolicy.ofReadCode b = some p ↔ b = p.code ∧ p ≠ .discard := by
  have hd : ∀ q : DefaultPolicy, q.code = 0x04 ↔ q = .discard := by intro q; cases q <;> decide
  unfold DefaultPolicy.ofReadCode
  rw [Option.ite_none_left_eq_some, DefaultPolicy.ofCode_eq_some]
  constructor
  · rintro ⟨hb, rfl⟩
    exact ⟨rfl, fun h => hb ((hd p).mpr h)⟩
  · rintro ⟨rfl, hp⟩
    exact ⟨fun h => hp ((hd p).mp h), rfl⟩

theorem wdefaultBody_policies {rp : DefaultPolicy} (wp : DefaultPolicy) (h : rp ≠ .discard) :
    wdefaultBody [rp.code, wp.code] s =
      { result := .done, payload := []
        after := s.setWindows { s.windows with stagedDefault := { readPolicy := rp, writePolicy := wp } } } := by
  simp only [wdefaultBody, DefaultPolicy.ofReadCode_eq_some.mpr ⟨rfl, h⟩, DefaultPolicy.ofCode_eq_some.mpr rfl]

theorem wdefaultBody_invalid {p : List Byte} (h : ∀ rp wp : DefaultPolicy, rp ≠ .discard → p ≠ [rp.code, wp.code]) :
    wdefaultBody p s = s.answers .invalid [] := by
  unfold wdefaultBody
  split
  · split
    · rename_i rp wp hr hw
      obtain ⟨rfl, hd⟩ := DefaultPolicy.ofReadCode_eq_some.mp hr
      obtain rfl := DefaultPolicy.ofCode_eq_some.mp hw
      exact absurd rfl (h rp wp hd)
    · rfl
  · rfl

/-! ### wread (R21) -/

/-- An index of the tables is not the byte that names DEFAULT or ALL (R189). -/
theorem indexByte_ne_all (w : Fin 24) : indexByte w ≠ 0xFF := by
  revert w
  decide

theorem wreadBody_staged (w : Fin 24) :
    wreadBody [0x00, indexByte w] s =
      s.answers .done ([0x00, indexByte w, s.windows.generation] ++ s.windows.staged[w].encode) := by
  simp only [wreadBody, if_true, if_neg (indexByte_ne_all w), indexOf_indexByte (show 24 ≤ 256 by omega)]

theorem wreadBody_active (w : Fin 24) :
    wreadBody [0x01, indexByte w] s =
      s.answers .done ([0x01, indexByte w, s.windows.generation] ++ s.windows.active[w].encode ++
        le 2 s.windows.tripRemaining[w] ++ [if s.windows.tripped[w] then 0x01 else 0x00]) := by
  simp only [wreadBody, if_neg (show (0x01 : Byte) ≠ 0x00 by decide), if_true, if_neg (indexByte_ne_all w),
    indexOf_indexByte (show 24 ≤ 256 by omega)]

theorem wreadBody_invalid {p : List Byte}
    (h : ∀ t i : Byte, p = [t, i] → (t ≠ 0x00 ∧ t ≠ 0x01) ∨ (24 ≤ i.toNat ∧ i ≠ 0xFF)) :
    wreadBody p s = s.answers .invalid [] := by
  unfold wreadBody
  split
  · rename_i t i
    dsimp only
    rcases h t i rfl with ⟨h0, h1⟩ | ⟨hi, hd⟩
    · rw [if_neg h0, if_neg h1]
    · rw [if_neg hd, if_neg hd, indexOf_eq_none.mpr hi]
      split
      · rfl
      · split <;> rfl
  · rfl

/-! ### wstats and wzero (R22, R23) -/

theorem wstatsBody_index (w : Fin 24) :
    wstatsBody [indexByte w, 0x00] s =
      s.answers .done (le 4 s.windows.readsMatched[w].toNat ++ le 4 s.windows.writesMatched[w].toNat) := by
  simp only [wstatsBody, indexOf_indexByte (show 24 ≤ 256 by omega), if_true]

theorem wstatsBody_invalid {p : List Byte} (h : ∀ w : Fin 24, p ≠ [indexByte w, 0x00]) :
    wstatsBody p s = s.answers .invalid [] := by
  unfold wstatsBody
  split
  · split
    · rename_i w hw
      split
      · rename_i hz
        exact absurd (by rw [eq_indexByte hw, hz]) (h w)
      · rfl
    · rfl
  · rfl

theorem wzeroBody_index (w : Fin 24) :
    wzeroBody [indexByte w] s =
      { result := .done, payload := []
        after := s.setWindows
          { s.windows with
            readsMatched := s.windows.readsMatched.set w 0
            writesMatched := s.windows.writesMatched.set w 0 } } := by
  simp only [wzeroBody, if_neg (indexByte_ne_all w), indexOf_indexByte (show 24 ≤ 256 by omega)]

theorem wzeroBody_all :
    wzeroBody [0xFF] s =
      { result := .done, payload := []
        after := s.setWindows
          { s.windows with readsMatched := Vector.replicate 24 0, writesMatched := Vector.replicate 24 0 } } := rfl

theorem wzeroBody_invalid {p : List Byte} (h : ∀ w : Fin 24, p ≠ [indexByte w]) (ha : p ≠ [0xFF]) :
    wzeroBody p s = s.answers .invalid [] := by
  unfold wzeroBody
  split
  · split
    · rename_i hi
      exact absurd (by rw [hi]) ha
    · split
      · rename_i w hw
        exact absurd (by rw [eq_indexByte hw]) (h w)
      · rfl
  · rfl

/-! ### The statements -/

/-- The record's bytes as R191 gives them: its flags byte is the sum of its flags, and the policy codes are those of R187. -/
theorem packByte_sum (a b c d e f : Bool) :
    packByte [a, b, c, d, e, f] =
      (if a then 1 else 0) + (if b then 2 else 0) + (if c then 4 else 0) + (if d then 8 else 0) +
        (if e then 16 else 0) + (if f then 32 else 0) := by
  revert a b c d e f
  decide

/-- Settles O15: the 26 bytes of a record of R1 are what decode reads, and nothing else is. -/
theorem wsetStagesRecordsOfR1Only : Obligations.WsetStagesRecordsOfR1Only := by
  refine ⟨fun q p s ha => ⟨?_, fun h => ?_⟩, fun r => ?_⟩
  · rintro w r rfl hv he
    exact immediate_windows ha _ .wset q (wsetBody_staged _ w ⟨hv, he⟩)
  · exact immediate_answers ha _ .wset q (wsetBody_invalid _ h)
  · dsimp only
    rw [WindowRecord.encode, WindowRecord.flags, packByte_sum]
    cases r.trip <;> cases r.segment <;> cases r.remap <;> rfl

/-- Settles O16. -/
theorem stagedRecordsAreClearedAndDefaultsReplaced : Obligations.StagedRecordsAreClearedAndDefaultsReplaced := by
  refine ⟨fun q p s ha => ⟨?_, fun h => ?_⟩, fun q p s ha => ⟨?_, fun h => ?_⟩⟩
  · rintro w rfl
    exact immediate_windows ha 5 .wclear q (wclearBody_index _ w)
  · exact immediate_answers ha _ .wclear q (wclearBody_invalid _ h)
  · rintro rp wp hr rfl
    exact immediate_windows ha 6 .wdefault q (wdefaultBody_policies _ wp hr)
  · exact immediate_answers ha _ .wdefault q (wdefaultBody_invalid _ h)

/-- Settles O17. -/
theorem wreadReturnsRecords : Obligations.WreadReturnsRecords := by
  intro q s ha
  refine ⟨fun w => ?_, ?_, fun w => ?_, ?_, fun p h => ?_⟩
  · exact immediate_answers ha 6 .wread q (wreadBody_staged _ w)
  · exact immediate_answers ha 6 .wread q rfl
  · exact immediate_answers ha 6 .wread q (wreadBody_active _ w)
  · exact immediate_answers ha 6 .wread q rfl
  · exact immediate_answers ha _ .wread q (wreadBody_invalid _ h)

/-- Settles O18. -/
theorem statisticsAreReadAndZeroed : Obligations.StatisticsAreReadAndZeroed := by
  refine ⟨fun q p s ha => ⟨?_, fun h => ?_⟩, fun q p s ha => ⟨?_, ?_, fun h hall => ?_⟩⟩
  · rintro w rfl
    exact immediate_answers ha 6 .wstats q (wstatsBody_index _ w)
  · exact immediate_answers ha _ .wstats q (wstatsBody_invalid _ h)
  · rintro w rfl
    exact immediate_windows ha 5 .wzero q (wzeroBody_index _ w)
  · rintro rfl
    exact immediate_windows ha 5 .wzero q (wzeroBody_all _)
  · exact immediate_answers ha _ .wzero q (wzeroBody_invalid _ h hall)

/-- Settles O19: the port begins the command, or replies INVALID. -/
theorem commitAndClearallMakeThePortBusy : Obligations.CommitAndClearallMakeThePortBusy := by
  intro q s ha
  refine ⟨?_, ?_, fun p hp => ⟨?_, ?_⟩⟩
  · rw [exec_commit, running_high ha.1, takeFrame_accepts ha]
    rfl
  · rw [exec_clearall, running_high ha.1, takeFrame_accepts ha]
    rfl
  · rw [exec_commit, running_high ha.1, takeFrame_accepts ha, takeCommit, if_neg hp, makeReady_handling]
    rfl
  · rw [exec_clearall, running_high ha.1, takeFrame_accepts ha, takeClearall, if_neg hp, makeReady_handling]
    rfl

end Sys2Proof.Machine
end

section
/-! The completion of commit: its checks in the manual's own terms, and the statement about it (R25, R26). -/

namespace Sys2Proof.Machine

open Claims

/-- Two windows with bytes overlap exactly where they share one (R25). -/
theorem WindowRecord.overlaps_iff {a b : WindowRecord} (ha : 0 < a.size) (hb : 0 < b.size) :
    a.overlaps b = true ↔
      ∃ x : Nat, a.base.toNat ≤ x ∧ x < a.base.toNat + a.size ∧ b.base.toNat ≤ x ∧ x < b.base.toNat + b.size := by
  simp only [overlaps, Bool.and_eq_true, decide_eq_true_eq]
  constructor
  · rintro ⟨h1, h2⟩
    exact ⟨max a.base.toNat b.base.toNat, by omega⟩
  · rintro ⟨x, h⟩
    omega

/-- The staged window at an index fails none of commit's checks exactly where it passes them as R25 gives them. -/
theorem failsCommit_eq_false {s : State} (hs : ∀ j : Fin 24, 0 < s.windows.staged[j].size) (i : Fin 24) :
    s.failsCommit i = false ↔ passes s i := by
  have hshare := fun j => (WindowRecord.overlaps_iff (hs i) (hs j)).not
  unfold passes
  simp only [← hshare]
  dsimp only [State.failsCommit]
  by_cases he : s.windows.staged[i].enabled = true
  · simp only [he, Bool.true_and, Bool.or_eq_false_iff, List.any_eq_false, List.mem_finRange, Bool.and_eq_true,
      decide_eq_true_eq, true_implies, Bool.not_eq_false', not_and, and_imp]
    tauto
  · simp only [he, Bool.false_and, Bool.false_eq_true, false_implies]

/-- commit finds no failing index exactly where every staged window passes (R25). -/
theorem lowestFailing_eq_none {s : State} (hs : ∀ j : Fin 24, 0 < s.windows.staged[j].size) :
    s.lowestFailing = none ↔ ∀ i : Fin 24, passes s i := by
  simp only [State.lowestFailing, findFin_none, failsCommit_eq_false hs]

/-- The failing index that commit reports is the lowest that does not pass (R25). -/
theorem lowestFailing_eq_some {s : State} (hs : ∀ j : Fin 24, 0 < s.windows.staged[j].size) {i : Fin 24} :
    s.lowestFailing = some i ↔ ¬ passes s i ∧ ∀ j, j < i → passes s j := by
  simp only [State.lowestFailing, findFin_some, failsCommit_eq_false hs]
  rw [← failsCommit_eq_false hs i, Bool.not_eq_false]

/-- The table that commit leaves: the staged one copied, its trip counts armed (R26). -/
theorem committed_eq (t : WindowTable) :
    t.committed =
      { t with
        active := t.staged
        activeDefault := t.stagedDefault
        tripRemaining := t.staged.map fun r => match r.trip with | none => 0 | some f => f.count
        tripped := Vector.replicate 24 false
        generation := t.generation + 1 } := by
  have htrip : tableMap (fun _ r => (r.trip.map fun f => f.count).getD 0) t.staged =
      t.staged.map fun r => match r.trip with | none => 0 | some f => f.count := by
    apply table_ext
    intro i
    simp only [Fin.getElem_fin, tableMap_getElem, Vector.getElem_map]
    cases t.staged[i].trip <;> rfl
  rw [WindowTable.committed, htrip]

theorem completeCommit_passes {s : State} {q : Byte} (hp : s.port.phase = .busy (.commit q)) (h : s.lowestFailing = none) :
    completeCommit s =
      (s.setWindows s.windows.committed).setPort (completed s.port 0x14 q .done [s.windows.committed.generation]) := by
  simp only [completeCommit, hp, h]
  rfl

theorem completeCommit_fails {s : State} {q : Byte} {i : Fin 24} (hp : s.port.phase = .busy (.commit q))
    (h : s.lowestFailing = some i) :
    completeCommit s = s.setPort (completed s.port 0x14 q .invalid [indexByte i]) := by
  simp only [completeCommit, hp, h]
  rfl

/-- Settles O20: commit's checks find what R25 names, and its copy is R26's. -/
theorem commitCopiesOrReportsTheLowestFailingIndex : Obligations.CommitCopiesOrReportsTheLowestFailingIndex := by
  refine ⟨fun q s hr hp hs h => ?_, fun q i s hr hp hs hi hlt => ?_⟩
  · rw [exec_commitCompletion, running_high hr, completeCommit_passes hp ((lowestFailing_eq_none hs).mpr h)]
    simp only [committed_eq]
    rfl
  · rw [exec_commitCompletion, running_high hr, completeCommit_fails hp ((lowestFailing_eq_some hs).mpr ⟨hi, hlt⟩)]
    rfl

end Sys2Proof.Machine
end

section
/-! The power-on state: its values, and that every law of the part holds in it (R27, R50, R54, R103, R130, R153, R166, R170). -/

namespace Sys2Proof.Machine

/-- Settles O3: every table of the power-on state holds one value. -/
theorem resetValues : Obligations.ResetValues := by
  refine ⟨fun i => ⟨fun r hr => ?_, ?_⟩, fun d hd => ?_, rfl, fun k => ?_, rfl, rfl, rfl, rfl, rfl, rfl, rfl, rfl, fun _ => rfl,
    fun t => ?_, rfl, rfl, rfl, rfl, rfl⟩
  · have hi : r = {} := by
      simpa [State.reset] using hr
    rw [hi]
    decide
  · simp [State.reset]
  · have hi : d = {} := by
      simpa [State.reset] using hd
    rw [hi]
    decide
  · simp [State.reset]
  · simp [State.reset]

theorem slots_free_reset (k : Fin 16) : State.reset.hold.slots[k].hold = none := by simp [State.reset]

theorem tags_free_reset (t : Fin 32) : State.reset.host.tags[t] = none := by simp [State.reset]

theorem segments_empty_reset (g : Fin 16) : State.reset.image.segments[g] = { live := none, waiting := [] } := by
  simp [State.reset]

/-- No request is anywhere after reset: tables, queues, chains and wait lists are empty (R50, R54, R130, R153, R166). -/
theorem traffic_lawful_reset : State.reset.TrafficLawful := by
  have hslot := slots_free_reset
  have htag := tags_free_reset
  have hchain : ∀ w : Fin 24, State.reset.chains[w] = [] := by simp [State.reset]
  have hforward : ∀ m : Fin 16, State.reset.issue.forward[m] = .free := by simp [State.reset]
  have hqueue : State.reset.issue.queue = [] := rfl
  refine ⟨⟨?_, fun t => ?_, fun t m => ?_, fun t k => ?_⟩, ⟨fun w => ?_, fun w t => ?_, fun w t ht => ?_, fun w t ht => ?_, fun k => ?_⟩,
    ⟨fun g => ?_, fun g hg => ?_, fun g k => ?_⟩, fun k => ?_, by decide⟩
  · simp [hqueue]
  · simp [hqueue, htag t]
  · simp only [hforward m, htag t]
    simp
  · simp only [hslot k, htag t]
    simp
  · simp only [hchain w, List.nodup_nil]
  · simp only [hchain w, htag t]
    simp
  · simp only [hchain w, List.drop_nil, List.not_mem_nil] at ht
  · simp only [hchain w, List.take_nil, List.not_mem_nil] at ht
  · simp only [hslot k]
    simp
  · simp only [segments_empty_reset g, List.nodup_nil]
  · simp only [segments_empty_reset g, ne_eq, not_true] at hg
  · simp only [segments_empty_reset g, hslot k]
    simp
  · simp only [hslot k]
    simp

/-- Settles O53: the queue of notices is empty, no window is enabled, no segment has a geometry, and no request is in flight. -/
theorem resetIsLawful : Obligations.ResetIsLawful := by
  have hempty := segments_empty_reset
  refine ⟨⟨fun i => i.elim0, fun n hn => absurd hn List.not_mem_nil, by decide, rfl, by decide⟩, windows_lawful_reset,
    servedSegmentsLive_of_disabled windows_disabled_reset, ⟨fun g l hl => ?_, fun g j _ l hl => ?_⟩, rfl,
    ⟨List.nodup_nil, fun x hx => absurd hx List.not_mem_nil⟩,
    traffic_lawful_reset, fun r hr => ?_, ⟨rfl, rfl⟩, fun h => by cases h⟩
  · simp only [hempty g] at hl
    cases hl
  · simp only [hempty g] at hl
    cases hl
  · cases hr

end Sys2Proof.Machine
end

section
/-! Admission: what acceptance counts, where an accepted request goes, and the statements about them (R5 to R16, R31, R57, R122 to R125,
R142 to R147). -/

namespace Sys2Proof.Machine

open Claims

set_option Elab.async false

/-! ### What acceptance counts (R13, R14, R16) -/

section counted

variable (s : State) (w : Fin 24) (o : Op)

/-- Acceptance writes the windows and posts the TRIP of a trip that fires; nothing else. -/
theorem countAccepted_eq :
    s.countAccepted w o =
      { s with
        windows := (s.windows.countTrip w).countMatch w o
        notices := if s.windows.tripRemaining[w] = 1 then s.notices.post (.trip w) else s.notices } := by
  simp only [State.countAccepted, WindowTable.tripDue, decide_eq_true_eq]
  split <;> rfl

@[simp] theorem countAccepted_hold : (s.countAccepted w o).hold = s.hold := by rw [countAccepted_eq]
@[simp] theorem countAccepted_chains : (s.countAccepted w o).chains = s.chains := by rw [countAccepted_eq]
@[simp] theorem countAccepted_image : (s.countAccepted w o).image = s.image := by rw [countAccepted_eq]
@[simp] theorem countAccepted_host : (s.countAccepted w o).host = s.host := by rw [countAccepted_eq]
@[simp] theorem countAccepted_issue : (s.countAccepted w o).issue = s.issue := by rw [countAccepted_eq]

/-- Whether a window is ordered, no trip changes. -/
theorem WindowRecord.fallenBack_ordered (r : WindowRecord) : r.fallenBack.ordered = r.ordered := by
  unfold fallenBack
  split <;> rfl

theorem countAccepted_ordered (i : Fin 24) :
    (s.countAccepted w o).windows.active[i].ordered = s.windows.active[i].ordered := by
  have ha : (s.countAccepted w o).windows.active = (s.windows.countTrip w).active := by
    rw [countAccepted_eq]
    exact (countMatch_fields _ w o).2.1
  rw [ha]
  rcases countTrip_active s.windows w i with e | e <;> rw [e]
  exact WindowRecord.fallenBack_ordered _

/-- Whether a request goes behind its window's chain is the same before and after it is counted (R58). -/
theorem countAccepted_needsOrder (i : Fin 24) : (s.countAccepted w o).needsOrder i = s.needsOrder i := by
  simp only [State.needsOrder, countAccepted_ordered, countAccepted_chains]

theorem countAccepted_joined (i : Fin 24) (t : Fin 32) : joined (s.countAccepted w o) i t = joined s i t := by
  simp only [joined, countAccepted_ordered, countAccepted_chains]

end counted

/-- Settles O48: acceptance by its equation, the trip by its own. -/
theorem acceptanceCountsTripsAndStatistics : Obligations.AcceptanceCountsTripsAndStatistics := by
  intro w o s
  dsimp only
  rw [countAccepted_eq, countTrip_eq]
  refine ⟨rfl, ?_, ?_, ?_, ?_, ?_, ?_, ?_, fun h => ?_, fun h => ?_⟩
  iterate 7 cases o <;> rfl
  · simp only [if_neg h]
    cases o <;> exact ⟨rfl, rfl, trivial⟩
  · simp only [if_pos h]
    refine ⟨by cases o <;> rfl, trivial, fun f hf => ?_⟩
    have hr : s.windows.active[w].fallenBack =
        { s.windows.active[w] with readPolicy := f.readFallback, writePolicy := f.writeFallback } := by
      simp only [WindowRecord.fallenBack, hf]
    rw [← hr]
    cases o <;> rfl

/-! ### The dispatch of an accepted request (R57, R58, R143) -/

section dispatched

variable {s : State} {r : HostRequest} {d : Decision}

/-- A request that leaves its admission busy: its tag's entry, and its place in the chain of an ordered window (R57, R137). -/
theorem enter_eq (s : State) (t : Fin 32) (w : Fin 24) (p : TagPlace) :
    s.enter t w p =
      { s with host := busyTag s.host t p (some w) s.windows.active[w].ordered, chains := joined s w t } := by
  unfold State.enter joined
  dsimp only
  cases s.windows.active[w].ordered <;> rfl

/-- A counted request that leaves its admission busy enters by its window as it was offered. -/
theorem enter_counted {t v : State} {w : Fin 24} {o : Op} {u : Fin 32} {p : TagPlace}
    (hw : t.windows = (s.countAccepted w o).windows) (hh : t.host = s.host) (hc : t.chains = s.chains)
    (hv : { t with host := busyTag s.host u p (some w) s.windows.active[w].ordered, chains := joined s w u } = v) :
    t.enter u w p = v := by
  have ho : t.windows.active[w].ordered = s.windows.active[w].ordered := by
    simp only [hw]
    exact countAccepted_ordered s w o w
  rw [enter_eq, hh, ho, joined, ho, hc]
  exact hv

/-- A window that is not ordered, or whose chain is empty, has no request behind its chain (R58). -/
theorem needsOrder_eq_false {w : Fin 24} (h : s.windows.active[w].ordered = true → s.chains[w] = []) :
    s.needsOrder w = false := by
  unfold State.needsOrder
  cases ho : s.windows.active[w].ordered with
  | false => rfl
  | true => simp [h ho]

theorem needsOrder_eq_true {w : Fin 24} (ho : s.windows.active[w].ordered = true) (hc : s.chains[w] ≠ []) :
    s.needsOrder w = true := by
  rw [State.needsOrder, ho, Bool.true_and, Bool.not_eq_true', List.isEmpty_eq_false_iff]
  exact hc

/-- A counted request goes behind no chain where it would not have before it was counted (R58). -/
theorem needsOrder_counted {w : Fin 24} (o : Op) (h : s.windows.active[w].ordered = true → s.chains[w] = []) :
    (s.countAccepted w o).needsOrder w = false := by
  rw [countAccepted_needsOrder]
  exact needsOrder_eq_false h

theorem dispatch_order {k : Fin 16} (hn : s.needsOrder d.window = true) :
    s.dispatch r d (some k) = (s.putHold k (Hold.start r d)).enter r.tag d.window (.held k) := by
  simp only [State.dispatch, hn]

theorem dispatch_defer {k : Fin 16} (hn : s.needsOrder d.window = false) (hr : d.ruling = .defer) :
    s.dispatch r d (some k) = (s.holdDefer k (Hold.start r d)).enter r.tag d.window (.held k) := by
  simp only [State.dispatch, hn, hr]

theorem dispatch_pass (x : Option (Fin 16)) (hn : s.needsOrder d.window = false) (hr : d.ruling = .pass) :
    s.dispatch r d x = (s.enqueue (issueEntry r d.downstream)).enter r.tag d.window .queued := by
  simp only [State.dispatch, hn, hr]

theorem dispatch_deny (x : Option (Fin 16)) (hn : s.needsOrder d.window = false) (hr : d.ruling = .deny) :
    s.dispatch r d x = s.respond r.tag .refused [] := by
  simp only [State.dispatch, hn, hr]

theorem dispatch_discard (x : Option (Fin 16)) (hn : s.needsOrder d.window = false) (hr : d.ruling = .discard) :
    s.dispatch r d x = s.respond r.tag .ok [] := by
  simp only [State.dispatch, hn, hr]

theorem dispatch_wait {k g : Fin 16} {p : Nat} (hn : s.needsOrder d.window = false) (hr : d.ruling = .serve g p)
    (hl : s.image.isLoading g = true) :
    s.dispatch r d (some k) = (s.holdImageWait k (Hold.start r d) g).enter r.tag d.window (.held k) := by
  simp only [State.dispatch, hn, hr, hl, if_true]

theorem dispatch_served (x : Option (Fin 16)) {g : Fin 16} {p : Nat} {t : State} {data : List Byte}
    (hn : s.needsOrder d.window = false) (hr : d.ruling = .serve g p) (hl : s.image.isLoading g = false)
    (hs : s.serve g p r = (t, some data)) : s.dispatch r d x = t.respond r.tag .ok data := by
  simp only [State.dispatch, hn, hr, hl, hs, Bool.false_eq_true, if_false]

theorem dispatch_faulted (x : Option (Fin 16)) {g : Fin 16} {p : Nat} {t : State}
    (hn : s.needsOrder d.window = false) (hr : d.ruling = .serve g p) (hl : s.image.isLoading g = false)
    (hs : s.serve g p r = (t, none)) : s.dispatch r d x = t.respond r.tag .fault [] := by
  simp only [State.dispatch, hn, hr, hl, hs, Bool.false_eq_true, if_false]

end dispatched

/-! ### Decision records (R9 to R11) -/

section decided

variable {t : WindowTable} {w : Fin 24} {r : HostRequest}

theorem decide_pass (h : t.active[w].policyFor r.op = .pass) : (t.decide w r).ruling = .pass := by
  simp only [WindowTable.decide, WindowRecord.rulingFor, h]

theorem decide_defer (h : t.active[w].policyFor r.op = .defer) : (t.decide w r).ruling = .defer := by
  simp only [WindowTable.decide, WindowRecord.rulingFor, h]

theorem decide_deny (h : t.active[w].policyFor r.op = .deny) : (t.decide w r).ruling = .deny := by
  simp only [WindowTable.decide, WindowRecord.rulingFor, h]

theorem decide_discard (h : t.active[w].policyFor r.op = .discard) : (t.decide w r).ruling = .discard := by
  simp only [WindowTable.decide, WindowRecord.rulingFor, h]

/-- A SERVE decision carries the segment and the image offset (R11). -/
theorem decide_serve {f : SegmentRef} (h : t.active[w].policyFor r.op = .serve) (hf : t.active[w].segment = some f) :
    (t.decide w r).ruling = .serve f.segment (f.offset + (r.addr.toNat - t.active[w].base.toNat)) := by
  simp only [WindowTable.decide, WindowRecord.rulingFor, h, WindowRecord.servedFrom, hf, Option.getD_some]

end decided

/-- Where an address that a window contains goes downstream, in the address space's own arithmetic (R10). -/
theorem downstream_eq {x : WindowRecord} {a : Addr} (hb : x.base.toNat ≤ a.toNat) :
    BitVec.ofNat 40 (x.downstream a) = match x.remap with | none => a | some t => t + (a - x.base) := by
  cases h : x.remap with
  | none => exact downstream_unchanged h
  | some t => exact downstream_remapped h hb

/-! ### The offers that reach their match (R138 to R143) -/

section offered

variable {s : State} {r : HostRequest} {w : Fin 24}

/-- An offer that is accepted to a window is counted and dispatched (R142, R143). -/
theorem offered_accepted (h : Offered s r (some w))
    (hs : s.needsSlot (s.windows.decide w r) = false ∨ s.hold.lowestFree ≠ none) :
    exec (.hostOffer r) s =
      .next ((s.countAccepted w r.op).dispatch r (s.windows.decide w r) s.hold.lowestFree) := by
  obtain ⟨hr, hopen, htag, hm, hw, hst⟩ := h
  have hslot : (s.needsSlot (s.windows.decide w r) && s.hold.lowestFree.isNone) = false := by
    rcases hs with hs | hs
    · rw [hs, Bool.false_and]
    · rw [Option.isNone_eq_false_iff.mpr (Option.isSome_iff_ne_none.mpr hs), Bool.and_false]
  rw [exec_hostOffer, running_high hr, offer_open hopen, evaluate_window htag hm hw hst, hslot, openLink_open hopen]
  simp only [Bool.false_eq_true, if_false]

/-- An offer that needs a slot where none is FREE stalls the link (R146). -/
theorem offered_stalls (h : Offered s r (some w)) (hn : s.needsSlot (s.windows.decide w r) = true)
    (hf : s.hold.lowestFree = none) : exec (.hostOffer r) s = .next (s.stall r w) := by
  obtain ⟨hr, hopen, htag, hm, hw, hst⟩ := h
  rw [exec_hostOffer, running_high hr, offer_open hopen, evaluate_window htag hm hw hst, hn, hf]
  rfl

/-- An offer that matches the default record is dispatched by it (R2, R143). -/
theorem offered_default (h : Offered s r none) : exec (.hostOffer r) s = .next (s.dispatchDefault r) := by
  obtain ⟨hr, hopen, htag, hm, hw, hst⟩ := h
  rw [exec_hostOffer, running_high hr, offer_open hopen, evaluate_default htag hm hw hst, openLink_open hopen]

/-- A matched window contains the request's address from its base on (R6). -/
theorem offered_base (h : Offered s r (some w)) : s.windows.active[w].base.toNat ≤ r.addr.toNat := by
  obtain ⟨-, -, -, -, hw, -⟩ := h
  obtain ⟨-, hb, -⟩ := contains_iff.mp (matched_contains hw)
  exact hb

/-- A request that goes behind no chain needs no slot unless it is for DEFER or of a LOADING segment (R142). -/
theorem needsSlot_eq_false {d : Decision} (hc : s.windows.active[d.window].ordered = true → s.chains[d.window] = [])
    (hd : d.ruling ≠ .defer) (hs : ∀ g p, d.ruling = .serve g p → s.image.isLoading g = false) : s.needsSlot d = false := by
  rw [State.needsSlot, needsOrder_eq_false hc, Bool.false_or]
  split
  · exact absurd (by assumption) hd
  · exact hs _ _ (by assumption)
  · rfl

end offered

/-! ### Requests that need no slot -/

/-- Settles O44: the dispatch of each policy that needs no slot, and the match. -/
theorem requestsWithoutASlotAreDispatched : Obligations.RequestsWithoutASlotAreDispatched := by
  intro r s
  refine ⟨fun w h hc => ?_, fun h => ?_, fun w hw hu => ?_, fun hn => ?_⟩
  · have hn := needsOrder_counted r.op hc
    have accepted : (∀ g p, (s.windows.decide w r).ruling ≠ .serve g p) → (s.windows.decide w r).ruling ≠ .defer →
        exec (.hostOffer r) s =
          .next ((s.countAccepted w r.op).dispatch r (s.windows.decide w r) s.hold.lowestFree) :=
      fun hserve hdefer => offered_accepted h (.inl (needsSlot_eq_false hc hdefer fun g p e => absurd e (hserve g p)))
    refine ⟨fun hp => ?_, fun hp => ?_, fun hp => ?_⟩
    · have hg := decide_deny hp
      rw [accepted (by simp [hg]) (by simp [hg]), dispatch_deny _ hn hg, State.respond, countAccepted_host]
      rfl
    · have hg := decide_discard hp
      rw [accepted (by simp [hg]) (by simp [hg]), dispatch_discard _ hn hg, State.respond, countAccepted_host]
      rfl
    · have hg := decide_pass hp
      have hd : (s.windows.decide w r).downstream = _ := downstream_eq (offered_base h)
      rw [accepted (by simp [hg]) (by simp [hg]), dispatch_pass _ hn hg, hd]
      refine congrArg _ (enter_counted (s := s) rfl (countAccepted_host s w r.op) (countAccepted_chains s w r.op) ?_)
      rw [State.enqueue, countAccepted_issue]
      rfl
  · rw [offered_default h]
    refine ⟨fun hp => ?_, fun hp => ?_, fun hp => ?_⟩ <;> simp only [State.dispatchDefault, hp] <;> rfl
  · exact matched_unique (contains_iff.mpr hw) fun i hi => by_contra fun hne => hu i hne (contains_iff.mp hi)
  · exact matched_none fun i => Bool.eq_false_iff.mpr fun hi => hn i (contains_iff.mp hi)

/-! ### SERVE (R122, R123, R125) -/

/-- A WRITE that is not malformed has a byte of data, and a flag of its mask where it has one, for each byte of its length (R133, R140). -/
theorem write_sound {r : HostRequest} (h : malformed r = false) (hw : r.op = .write) :
    r.data.length = r.len.toNat ∧ ∀ m ∈ r.mask, m.length = r.len.toNat := by
  simp only [malformed, hw, Bool.or_eq_false_iff, decide_eq_false_iff_not, Decidable.not_not, ne_eq] at h
  obtain ⟨-, hd, hm⟩ := h
  refine ⟨hd, fun m hm' => ?_⟩
  rw [Option.mem_def.mp hm'] at hm
  simpa using hm

/-- A byte of a WRITE is stored unless its mask disables it (R123, R133). -/
theorem writeFlags_getD {r : HostRequest} {i : Nat} (hi : i < r.data.length) :
    (writeFlags r).getD i false = true ↔ (r.mask.map fun m => m.getD i false) ≠ some false := by
  unfold writeFlags
  cases r.mask with
  | none => simp [List.getD_eq_getElem?_getD, hi]
  | some m => simp

/-- What a WRITE leaves in a segment: its enabled bytes in its range, and every other byte as it was (R123). -/
theorem writeEnabled_request {m : List Host.Cell} (hm : Memory.wf m = true) {r : HostRequest} (hr : malformed r = false)
    (hw : r.op = .write) {a : Nat} (ha : a + r.len.toNat ≤ Config.storeSize) :
    (∀ i : Nat, i < r.len.toNat → byteAt (writeEnabled m a r.data (writeFlags r)) (a + i) =
      if (r.mask.map fun f => f.getD i false) = some false then byteAt m (a + i) else r.data.getD i 0) ∧
    ∀ x, (x < a ∨ a + r.len.toNat ≤ x) → byteAt (writeEnabled m a r.data (writeFlags r)) x = byteAt m x := by
  obtain ⟨hd, hmask⟩ := write_sound hr hw
  have hl : r.data.length = (writeFlags r).length := by
    unfold writeFlags
    cases hf : r.mask with
    | none => simp
    | some f => exact hd.trans (hmask f hf).symm
  have hb := byteAt_writeEnabled hm r.data (writeFlags r) hl (hd ▸ ha)
  refine ⟨fun i hi => ?_, fun x hx => ?_⟩
  · rw [hb, Nat.add_sub_cancel_left]
    by_cases hf : (r.mask.map fun f => f.getD i false) = some false
    · rw [if_pos hf, if_neg]
      rw [writeFlags_getD (hd ▸ hi)]
      exact fun c => c.2.2 hf
    · rw [if_neg hf, if_pos ⟨by omega, by omega, (writeFlags_getD (hd ▸ hi)).mpr hf⟩]
  · rw [hb, if_neg (by omega)]

/-- A segment that is not LOADING (R108). -/
theorem isLoading_eq_false {m : ImageStore} {g : Fin 16} (h : ∀ l ∈ m.segments[g].live, l.state ≠ .loading) :
    m.isLoading g = false := by
  unfold ImageStore.isLoading
  cases hl : m.segments[g].live with
  | none => rfl
  | some l => simpa using h l hl

theorem isLoading_eq_true {m : ImageStore} {g : Fin 16} {l : Live} (hl : m.segments[g].live = some l) (h : l.state = .loading) :
    m.isLoading g = true := by
  simp only [ImageStore.isLoading, hl, Option.map_some, h, decide_true]

section serving

variable {s : State} {r : HostRequest} {w : Fin 24} {f : SegmentRef} {t : State}

theorem serveBytes_read {m : ImageStore} {a : Nat} (h : r.op = .read) : m.serveBytes a r = m.bytes := by
  simp only [ImageStore.serveBytes, h]

theorem serveBytes_write {m : ImageStore} {a : Nat} (h : r.op = .write) :
    m.serveBytes a r = writeEnabled m.bytes a r.data (writeFlags r) := by
  simp only [ImageStore.serveBytes, h]

theorem serveData_read {m : ImageStore} {a : Nat} (h : r.op = .read) : m.serveData a r = readBytes m.bytes a r.len.toNat := by
  simp only [ImageStore.serveData, h]

theorem serveData_write {m : ImageStore} {a : Nat} (h : r.op = .write) : m.serveData a r = [] := by
  simp only [ImageStore.serveData, h]

/-- What makes the dispatch of a SERVE request serve it: no chain before it, and a segment that is not LOADING (R142, R143). -/
theorem serves_at_once (hc : s.windows.active[w].ordered = true → s.chains[w] = [])
    (hp : s.windows.active[w].policyFor r.op = .serve) (hf : s.windows.active[w].segment = some f)
    (hl : s.image.isLoading f.segment = false) :
    (s.countAccepted w r.op).needsOrder (s.windows.decide w r).window = false ∧
    (s.windows.decide w r).ruling = .serve f.segment (f.offset + (r.addr.toNat - s.windows.active[w].base.toNat)) ∧
    (s.countAccepted w r.op).image.isLoading f.segment = false ∧ s.needsSlot (s.windows.decide w r) = false := by
  have hg := decide_serve hp hf
  refine ⟨needsOrder_counted r.op hc, hg, (countAccepted_image s w r.op).symm ▸ hl,
    needsSlot_eq_false hc (by simp [hg]) fun g p e => ?_⟩
  rw [hg] at e
  cases e
  exact hl

/-- A SERVE request of a segment that is not LOADING is answered OK with the data that serving it gives (R122, R123). -/
theorem offered_served (h : Offered s r (some w)) (hc : s.windows.active[w].ordered = true → s.chains[w] = [])
    (hp : s.windows.active[w].policyFor r.op = .serve) (hf : s.windows.active[w].segment = some f)
    (hl : s.image.isLoading f.segment = false) {data : List Byte}
    (hs : (s.countAccepted w r.op).serve f.segment (f.offset + (r.addr.toNat - s.windows.active[w].base.toNat)) r =
      (t, some data)) :
    exec (.hostOffer r) s = .next (t.respond r.tag .ok data) := by
  obtain ⟨hn, hg, hi, hneed⟩ := serves_at_once hc hp hf hl
  rw [offered_accepted h (.inl hneed), dispatch_served _ hn hg hi hs]

/-- A SERVE request of a segment that is not LOADING is answered FAULT where serving it gives no data (R123, R125). -/
theorem offered_faulted (h : Offered s r (some w)) (hc : s.windows.active[w].ordered = true → s.chains[w] = [])
    (hp : s.windows.active[w].policyFor r.op = .serve) (hf : s.windows.active[w].segment = some f)
    (hl : s.image.isLoading f.segment = false) {x : ImageCause}
    (hs : (s.countAccepted w r.op).serve f.segment (f.offset + (r.addr.toNat - s.windows.active[w].base.toNat)) r =
      ((s.countAccepted w r.op).post (.imageFault f.segment x), none)) :
    exec (.hostOffer r) s = .next
      { s.countAccepted w r.op with
        host := answered s.host r.tag .fault []
        notices := (s.countAccepted w r.op).notices.post (.imageFault f.segment x) } := by
  obtain ⟨hn, hg, hi, hneed⟩ := serves_at_once hc hp hf hl
  rw [offered_accepted h (.inl hneed), dispatch_faulted _ hn hg hi hs, ← countAccepted_host s w r.op]
  rfl

end serving

/-- Settles O45: each outcome of serving is the request's, against the image as it was offered. -/
theorem servedRequestsReadAndWriteTheSegment : Obligations.ServedRequestsReadAndWriteTheSegment := by
  intro r w f s hwf h hc hp hf
  refine ⟨fun l hl hready hfit => ?_, fun hfail => ?_⟩
  · have hload : s.image.isLoading f.segment = false := isLoading_eq_false fun x hx => by
      rw [hl] at hx
      cases hx
      rw [hready]
      decide
    have hlive : (s.countAccepted w r.op).image.segments[f.segment].live = some l := by
      simp only [countAccepted_image]
      exact hl
    refine ⟨fun hin hop => ?_, fun hin hop => ?_, fun hout => ?_⟩
    · rw [offered_served h hc hp hf hload (serve_ready hlive hready hin), serveBytes_read hop, serveData_read hop,
        ← countAccepted_host s w r.op, ← countAccepted_image s w r.op]
      rfl
    · obtain ⟨-, -, -, hmal, -, -⟩ := id h
      refine ⟨_, ?_, writeEnabled_request hwf hmal hop (by simp only [Config.storeSize]; omega)⟩
      rw [offered_served h hc hp hf hload (serve_ready hlive hready hin), serveBytes_write hop, serveData_write hop,
        countAccepted_image, ← countAccepted_host s w r.op]
      rfl
    · exact offered_faulted h hc hp hf hload (serve_range hlive hready hout)
  · have hnot : ∀ l ∈ s.image.segments[f.segment].live, l.state = .failed := by
      intro l hl
      rcases hfail with hnone | ⟨x, hx, hstate⟩
      · rw [hnone] at hl
        cases hl
      · rw [Option.mem_def.mp hl] at hx
        cases hx
        exact hstate
    have hload : s.image.isLoading f.segment = false := isLoading_eq_false fun l hl => by rw [hnot l hl]; decide
    refine offered_faulted h hc hp hf hload (serve_failed fun l hl => ?_)
    simp only [countAccepted_image] at hl
    rw [hnot l hl]
    decide

/-! ### Requests that take a slot (R31, R142) -/

/-- The lowest FREE slot is the one that the search finds (R31). -/
theorem lowestFree_eq_some {s : State} {k : Fin 16} : s.hold.lowestFree = some k ↔ LowestFree s k := by
  rw [HoldTable.lowestFree, lowest_eq_some]
  simp only [LowestFree, Option.isNone_iff_eq_none, Option.isNone_eq_false_iff, Option.isSome_iff_ne_none]

/-- With every slot HELD the search finds none (R32). -/
theorem lowestFree_eq_none {h : HoldTable} : h.lowestFree = none ↔ ∀ k : Fin 16, h.slots[k].hold ≠ none := by
  rw [HoldTable.lowestFree, lowest_eq_none]
  simp only [Option.isNone_eq_false_iff, Option.isSome_iff_ne_none]

/-- Settles O46: the dispatch of each reason for a slot, and the decision record field by field. -/
theorem requestsTakeTheLowestFreeSlot : Obligations.RequestsTakeTheLowestFreeSlot := by
  refine ⟨fun r w k s h hk => ?_, fun r w t hb => ?_⟩
  · have hfree : s.hold.lowestFree = some k := lowestFree_eq_some.mpr hk
    have accepted : exec (.hostOffer r) s =
        .next ((s.countAccepted w r.op).dispatch r (s.windows.decide w r) (some k)) := by
      rw [offered_accepted h (.inr (by rw [hfree]; simp)), hfree]
    refine ⟨fun ho hc => ?_, fun hc => ⟨fun hp => ?_, fun f l hp hf hl hstate => ?_⟩⟩
    · have hn : (s.countAccepted w r.op).needsOrder w = true := by
        rw [countAccepted_needsOrder]
        exact needsOrder_eq_true ho hc
      rw [accepted, dispatch_order hn]
      refine congrArg _ (enter_counted (s := s) rfl (countAccepted_host s w r.op) (countAccepted_chains s w r.op) ?_)
      rw [State.putHold, countAccepted_hold]
      rfl
    · have hn := needsOrder_counted r.op hc
      rw [accepted, dispatch_defer hn (decide_defer hp)]
      refine congrArg _ (enter_counted (s := s) rfl (countAccepted_host s w r.op) (countAccepted_chains s w r.op) ?_)
      rw [State.holdDefer, State.putHold, countAccepted_hold]
      rfl
    · have hn := needsOrder_counted r.op hc
      have hload : (s.countAccepted w r.op).image.isLoading f.segment = true := by
        rw [countAccepted_image]
        exact isLoading_eq_true hl hstate
      rw [accepted, dispatch_wait hn (decide_serve hp hf) hload]
      refine congrArg _ (enter_counted (s := s) rfl (countAccepted_host s w r.op) (countAccepted_chains s w r.op) ?_)
      rw [State.holdImageWait, State.putHold, countAccepted_hold, countAccepted_image]
      rfl
  · have hd : (t.decide w r).downstream = _ := downstream_eq hb
    refine ⟨rfl, rfl, rfl, fun hr => ?_, fun a hr => ?_, decide_pass, decide_defer, decide_deny, decide_discard,
      fun f hp hf => decide_serve hp hf⟩
    · rw [hd, hr]
    · rw [hd, hr]

/-- Settles O47: an offer without a slot stalls the link, and a STALLED link takes no other. -/
theorem offersStallWithoutASlot : Obligations.OffersStallWithoutASlot := by
  refine ⟨fun r w s h hheld hneeds => ?_, fun r q s hq => ?_⟩
  · have hn : s.needsSlot (s.windows.decide w r) = true := by
      rcases hneeds with hp | ⟨ho, hc⟩ | ⟨hp, f, hf, hl⟩
      · simp only [State.needsSlot, decide_defer hp, Bool.or_true]
      · rw [State.needsSlot, needsOrder_eq_true (w := (s.windows.decide w r).window) ho hc, Bool.true_or]
      · simp only [State.needsSlot, decide_serve hp hf, hl, Bool.or_true]
    exact offered_stalls h hn (lowestFree_eq_none.mpr hheld)
  · rw [exec_hostOffer]
    cases hr : s.resetn with
    | high => rw [running_high hr, offer_stalled hq]
    | low => rw [running_low hr]

end Sys2Proof.Machine
end

section
/-! The completion of clearall: the order in which the HELD requests are refused, and what every block becomes (R28, R52, R67, R105,
R132, R153, R168, R184). -/

namespace Sys2Proof.Machine

open Claims

set_option Elab.async false

/-! ### Refusing slot by slot -/

/-- A slot after its request has been refused by a clearall completion (R52). -/
def Slot.cleared (x : Slot) : Slot := if x.hold = none then x else x.free .cleared

theorem refuseSlot_free {s : State} {k : Fin 16} (h : s.hold.slots[k].hold = none) : s.refuseSlot k = s := by
  simp only [State.refuseSlot, h]

theorem refuseSlot_held {s : State} {k : Fin 16} {h : Hold} (hk : s.hold.slots[k].hold = some h) :
    s.refuseSlot k =
      { s with
        hold := { s.hold with slots := s.hold.slots.set k (s.hold.slots[k].free .cleared) }
        host := responded s.host h.req.tag .refused [] } := by
  simp only [State.refuseSlot, hk]
  rfl

/-- Refusing a slot leaves every other slot. -/
theorem refuseSlot_other {s : State} {k j : Fin 16} (h : k ≠ j) : (s.refuseSlot k).hold.slots[j] = s.hold.slots[j] := by
  cases hk : s.hold.slots[k].hold with
  | none => rw [refuseSlot_free hk]
  | some x =>
    rw [refuseSlot_held hk]
    exact table_set_get_ne _ _ h

/-- The slots of a list that are refused one after another, in that order: each that is HELD when its turn comes. -/
def refusedOf : State → List (Fin 16) → List (Fin 16)
  | _, [] => []
  | s, k :: rest => if s.hold.slots[k].hold = none then refusedOf s rest else k :: refusedOf (s.refuseSlot k) rest

theorem refusedOf_free {s : State} {k : Fin 16} (rest : List (Fin 16)) (h : s.hold.slots[k].hold = none) :
    refusedOf s (k :: rest) = refusedOf s rest := by
  rw [refusedOf, if_pos h]

theorem refusedOf_held {s : State} {k : Fin 16} (rest : List (Fin 16)) (h : s.hold.slots[k].hold ≠ none) :
    refusedOf s (k :: rest) = k :: refusedOf (s.refuseSlot k) rest := by
  rw [refusedOf, if_neg h]

/-- After its refusal a slot is FREE. -/
theorem refuseSlot_self (s : State) (k : Fin 16) : (s.refuseSlot k).hold.slots[k] = s.hold.slots[k].cleared := by
  unfold Slot.cleared
  cases hk : s.hold.slots[k].hold with
  | none => rw [refuseSlot_free hk, if_pos rfl]
  | some x =>
    rw [refuseSlot_held hk, if_neg (by simp)]
    exact table_set_get_self _ _ _

theorem Slot.cleared_hold (x : Slot) : x.cleared.hold = none := by
  unfold Slot.cleared
  split
  · assumption
  · rfl

/-- A slot is refused exactly where it is listed and HELD. -/
theorem mem_refusedOf {s : State} {l : List (Fin 16)} {j : Fin 16} :
    j ∈ refusedOf s l ↔ j ∈ l ∧ s.hold.slots[j].hold ≠ none := by
  induction l generalizing s with
  | nil => simp [refusedOf]
  | cons k rest ih =>
    by_cases hk : s.hold.slots[k].hold = none
    · rw [refusedOf_free rest hk, ih, List.mem_cons]
      constructor
      · rintro ⟨hj, hh⟩
        exact ⟨.inr hj, hh⟩
      · rintro ⟨rfl | hj, hh⟩
        · exact absurd hk hh
        · exact ⟨hj, hh⟩
    · rw [refusedOf_held rest hk, List.mem_cons, List.mem_cons, ih]
      by_cases hj : k = j
      · subst hj
        exact ⟨fun _ => ⟨.inl rfl, hk⟩, fun _ => .inl rfl⟩
      · rw [refuseSlot_other hj]
        simp only [Ne.symm hj, false_or]

/-- No slot is refused twice: a refused slot is FREE. -/
theorem refusedOf_nodup (s : State) (l : List (Fin 16)) : (refusedOf s l).Nodup := by
  induction l generalizing s with
  | nil => exact List.nodup_nil
  | cons k rest ih =>
    by_cases hk : s.hold.slots[k].hold = none
    · rw [refusedOf_free rest hk]
      exact ih s
    · rw [refusedOf_held rest hk]
      refine List.nodup_cons.mpr ⟨fun hm => ?_, ih _⟩
      refine (mem_refusedOf.mp hm).2 ?_
      rw [refuseSlot_self]
      exact Slot.cleared_hold _

/-- The refused slots come in the list's order. -/
theorem refusedOf_sublist (s : State) (l : List (Fin 16)) : List.Sublist (refusedOf s l) l := by
  induction l generalizing s with
  | nil => exact .slnil
  | cons k rest ih =>
    by_cases hk : s.hold.slots[k].hold = none
    · rw [refusedOf_free rest hk]
      exact (ih s).cons k
    · rw [refusedOf_held rest hk]
      exact (ih _).cons_cons k

/-- What follows a list that names every HELD slot is refused nothing. -/
theorem refusedOf_append {s : State} {l : List (Fin 16)} (h : ∀ j : Fin 16, s.hold.slots[j].hold ≠ none → j ∈ l)
    (m : List (Fin 16)) : refusedOf s (l ++ m) = refusedOf s l := by
  induction l generalizing s with
  | nil =>
    have hm : ∀ j : Fin 16, s.hold.slots[j].hold = none := fun j => by_contra fun hj => List.not_mem_nil (h j hj)
    induction m with
    | nil => rfl
    | cons k rest ih => rw [List.nil_append, refusedOf_free rest (hm k), ← List.nil_append rest, ih]
  | cons k rest ih =>
    rw [List.cons_append]
    by_cases hk : s.hold.slots[k].hold = none
    · rw [refusedOf_free _ hk, refusedOf_free _ hk]
      refine ih fun j hj => ?_
      rcases List.mem_cons.mp (h j hj) with rfl | hr
      · exact absurd hk hj
      · exact hr
    · rw [refusedOf_held _ hk, refusedOf_held _ hk]
      congr 1
      refine ih fun j hj => ?_
      by_cases e : k = j
      · subst e
        rw [refuseSlot_self, Slot.cleared_hold] at hj
        exact absurd rfl hj
      · rw [refuseSlot_other e] at hj
        exact (List.mem_cons.mp (h j hj)).resolve_left (Ne.symm e)

/-- The response that a clearall completion sends for a slot's request (R52). -/
def refusal (s : State) (k : Fin 16) : Option HostResponse :=
  s.hold.slots[k].hold.map fun h => { tag := h.req.tag, status := .refused, data := [] }

/-- Refusing slots writes the slots of the hold table and the tags and responses of the host link, and nothing else. -/
theorem refuse_frame (s : State) (l : List (Fin 16)) :
    let t := l.foldl State.refuseSlot s
    t = { s with
      hold := { s.hold with slots := t.hold.slots }
      host := { s.host with tags := t.host.tags, sent := t.host.sent } } := by
  induction l generalizing s with
  | nil => rfl
  | cons k rest ih =>
    have hstep : s.refuseSlot k =
        { s with
          hold := { s.hold with slots := (s.refuseSlot k).hold.slots }
          host := { s.host with tags := (s.refuseSlot k).host.tags, sent := (s.refuseSlot k).host.sent } } := by
      cases hk : s.hold.slots[k].hold with
      | none => rw [refuseSlot_free hk]
      | some x =>
        rw [refuseSlot_held hk]
        rfl
    rw [List.foldl_cons]
    refine (ih (s.refuseSlot k)).trans ?_
    rw [hstep]

/-- A listed slot is refused if it was HELD, and no other slot changes. -/
theorem refuse_slots (s : State) (l : List (Fin 16)) (j : Fin 16) :
    (l.foldl State.refuseSlot s).hold.slots[j] = if j ∈ l then s.hold.slots[j].cleared else s.hold.slots[j] := by
  induction l generalizing s with
  | nil => rfl
  | cons k rest ih =>
    rw [List.foldl_cons, ih]
    by_cases hj : k = j
    · subst hj
      rw [refuseSlot_self, if_pos List.mem_cons_self]
      split
      · rw [Slot.cleared, if_pos (Slot.cleared_hold _)]
      · rfl
    · rw [refuseSlot_other hj]
      simp only [List.mem_cons, Ne.symm hj, false_or]

/-- The responses are those of the refused slots, in their order. -/
theorem refuse_sent (s : State) (l : List (Fin 16)) :
    (l.foldl State.refuseSlot s).host.sent = s.host.sent ++ (refusedOf s l).filterMap (refusal s) := by
  induction l generalizing s with
  | nil => simp [refusedOf]
  | cons k rest ih =>
    rw [List.foldl_cons, ih]
    cases hk : s.hold.slots[k].hold with
    | none => rw [refuseSlot_free hk, refusedOf_free rest hk]
    | some x =>
      have hne : s.hold.slots[k].hold ≠ none := by rw [hk]; simp
      have hsame : (refusedOf (s.refuseSlot k) rest).filterMap (refusal (s.refuseSlot k)) =
          (refusedOf (s.refuseSlot k) rest).filterMap (refusal s) := by
        refine List.filterMap_congr fun j hj => ?_
        have hkj : k ≠ j := by
          rintro rfl
          refine (mem_refusedOf.mp hj).2 ?_
          rw [refuseSlot_self]
          exact Slot.cleared_hold _
        rw [refusal, refuseSlot_other hkj, refusal]
      have hresp : refusal s k = some { tag := x.req.tag, status := .refused, data := [] } := by rw [refusal, hk]; rfl
      rw [hsame, refusedOf_held rest hne, List.filterMap_cons_some hresp]
      have hsent : (s.refuseSlot k).host.sent =
          s.host.sent ++ [{ tag := x.req.tag, status := .refused, data := [] }] := by rw [refuseSlot_held hk]; rfl
      rw [hsent, List.append_assoc, List.singleton_append]

/-- Refusing a slot leaves every tag but that of its request, which becomes FREE. -/
theorem refuseSlot_tags (s : State) (k : Fin 16) (u : Fin 32) :
    (s.refuseSlot k).host.tags[u] = none ∨
      (s.refuseSlot k).host.tags[u] = s.host.tags[u] ∧ ∀ h ∈ s.hold.slots[k].hold, h.req.tag ≠ u := by
  cases hk : s.hold.slots[k].hold with
  | none =>
    rw [refuseSlot_free hk]
    exact .inr ⟨rfl, fun h hh => by cases hh⟩
  | some x =>
    rw [refuseSlot_held hk]
    have hset : (s.host.tags.set x.req.tag none)[u] = if x.req.tag = u then none else s.host.tags[u] :=
      table_set_get _ _ _ _
    by_cases hu : x.req.tag = u
    · left
      exact hset.trans (if_pos hu)
    · right
      exact ⟨hset.trans (if_neg hu), fun h hh => by cases hh; exact hu⟩

/-- A FREE tag stays FREE. -/
theorem refuse_tag_free (s : State) (l : List (Fin 16)) {u : Fin 32} (h : s.host.tags[u] = none) :
    (l.foldl State.refuseSlot s).host.tags[u] = none := by
  induction l generalizing s with
  | nil => exact h
  | cons k rest ih =>
    refine ih _ ?_
    rcases refuseSlot_tags s k u with e | ⟨e, -⟩
    · exact e
    · exact e.trans h

/-- A tag whose request is in no slot stays as it was. -/
theorem refuse_tag_other (s : State) (l : List (Fin 16)) {u : Fin 32}
    (h : ∀ k : Fin 16, ∀ x ∈ s.hold.slots[k].hold, x.req.tag ≠ u) :
    (l.foldl State.refuseSlot s).host.tags[u] = s.host.tags[u] := by
  induction l generalizing s with
  | nil => rfl
  | cons k rest ih =>
    rw [List.foldl_cons, ih (s.refuseSlot k)]
    · cases hk : s.hold.slots[k].hold with
      | none => rw [refuseSlot_free hk]
      | some x =>
        rw [refuseSlot_held hk]
        exact table_set_get_ne _ _ (h k x hk)
    · intro j x hx
      by_cases hj : k = j
      · subst hj
        rw [refuseSlot_self, Slot.cleared_hold] at hx
        cases hx
      · rw [refuseSlot_other hj] at hx
        exact h j x hx

/-- The tag of a listed slot's request becomes FREE (R52). -/
theorem refuse_tag_held (s : State) {l : List (Fin 16)} {k : Fin 16} {x : Hold} (hk : k ∈ l)
    (hx : s.hold.slots[k].hold = some x) : (l.foldl State.refuseSlot s).host.tags[x.req.tag] = none := by
  induction l generalizing s with
  | nil => cases hk
  | cons j rest ih =>
    rw [List.foldl_cons]
    rcases refuseSlot_tags s j x.req.tag with e | ⟨-, e⟩
    · exact refuse_tag_free _ _ e
    · have hj : j ≠ k := by
        rintro rfl
        exact e x hx rfl
      refine ih _ ((List.mem_cons.mp hk).resolve_left hj.symm) ?_
      rw [refuseSlot_other hj]
      exact hx

/-! ### The order of the refusals (R52) -/

/-- The group of slots that R52 answers at the place of slot k: those of its chain where k is the lowest, or k alone. -/
def groupAt (s : State) (k : Fin 16) : List (Fin 16) :=
  match s.hold.slots[k].hold with
  | none => []
  | some h => if (s.chainSlots k h).all fun j => k ≤ j then s.chainSlots k h else []

theorem clearOrder_eq (s : State) : s.clearOrder = (List.finRange 16).flatMap (groupAt s) := rfl

/-- The slots of a chain's members, in chain order. -/
def memberSlots (s : State) (w : Fin 24) : List (Fin 16) := s.chains[w].filterMap fun t => (s.slotOf t).map fun x => x.1

/-- The chain of a HELD slot is its tag entry's window, where that is a member's (R54). -/
theorem chainOf_eq_some {s : State} {k : Fin 16} {w : Fin 24} :
    chainOf s k = some w ↔
      ∃ h p, s.hold.slots[k].hold = some h ∧
        s.host.tags[h.req.tag] = some { place := p, window := some w, member := true } := by
  unfold chainOf
  constructor
  · intro h
    obtain ⟨e, he, hw⟩ := Option.bind_eq_some_iff.mp h
    obtain ⟨x, hx, ht⟩ := Option.bind_eq_some_iff.mp he
    obtain ⟨hm, hw⟩ := Option.ite_none_right_eq_some.mp hw
    obtain ⟨p, win, m⟩ := e
    dsimp only at hm hw
    subst hm hw
    exact ⟨x, p, hx, ht⟩
  · rintro ⟨x, p, hx, ht⟩
    rw [hx, Option.bind_some, ht]
    rfl

theorem chainSlots_member {s : State} {k : Fin 16} {h : Hold} {w : Fin 24} (hk : s.hold.slots[k].hold = some h)
    (hc : chainOf s k = some w) : s.chainSlots k h = memberSlots s w := by
  obtain ⟨x, p, hx, ht⟩ := chainOf_eq_some.mp hc
  rw [hk] at hx
  cases hx
  simp only [State.chainSlots, ht]
  rfl

theorem chainSlots_alone {s : State} {k : Fin 16} {h : Hold} (hk : s.hold.slots[k].hold = some h)
    (hc : chainOf s k = none) : s.chainSlots k h = [k] := by
  unfold State.chainSlots
  split
  · rename_i p w ht
    rw [chainOf_eq_some.mpr ⟨h, p, hk, ht⟩] at hc
    cases hc
  · rfl

/-- In lawful traffic a member's slot is where its tag's entry says, and holds the tag's request (R136, R137). -/
theorem slotOf_tag {s : State} (ht : s.TrafficLawful) {t : Fin 32} {k : Fin 16} {h : Hold} (hs : s.slotOf t = some (k, h)) :
    s.hold.slots[k].hold = some h ∧ h.req.tag = t := by
  have hk := slotOf_hold hs
  obtain ⟨⟨-, -, -, hheld⟩, -, -, -⟩ := ht
  have hplace : ∃ x ∈ s.host.tags[t], x.place = .held k := by
    unfold State.slotOf at hs
    split at hs
    · rename_i e
      obtain ⟨x, -, hx⟩ := Option.map_eq_some_iff.mp hs
      cases hx
      exact ⟨_, e, rfl⟩
    · cases hs
  obtain ⟨x, hx, hxt⟩ := (hheld t k).mp hplace
  rw [Option.mem_def.mp hx] at hk
  cases hk
  exact ⟨hx, hxt⟩

theorem slotOf_held {s : State} (ht : s.TrafficLawful) {k : Fin 16} {h : Hold} (hk : s.hold.slots[k].hold = some h) :
    s.slotOf h.req.tag = some (k, h) := by
  obtain ⟨⟨-, -, -, hheld⟩, -, -, -⟩ := ht
  obtain ⟨x, hx, hp⟩ := (hheld h.req.tag k).mpr ⟨h, hk, rfl⟩
  obtain ⟨p, w, m⟩ := x
  dsimp only at hp
  subst hp
  simp only [State.slotOf, Option.mem_def.mp hx, hk, Option.map_some]

/-- In lawful traffic the slots of a chain's members are the slots whose requests are in the chain (R54, R137). -/
theorem mem_memberSlots {s : State} (ht : s.TrafficLawful) {w : Fin 24} {j : Fin 16} :
    j ∈ memberSlots s w ↔ chainOf s j = some w := by
  obtain ⟨-, ⟨-, hmember, -⟩, -⟩ := id ht
  rw [memberSlots, List.mem_filterMap, chainOf_eq_some]
  constructor
  · rintro ⟨t, hc, hs⟩
    obtain ⟨⟨k, h⟩, hx, rfl⟩ := Option.map_eq_some_iff.mp hs
    obtain ⟨hk, rfl⟩ := slotOf_tag ht hx
    obtain ⟨⟨p, win, m⟩, hx, hm, hw⟩ := (hmember w h.req.tag).mp hc
    dsimp only at hm hw
    subst hm hw
    exact ⟨h, p, hk, hx⟩
  · rintro ⟨h, p, hk, hx⟩
    refine ⟨h.req.tag, (hmember w h.req.tag).mpr ⟨_, hx, rfl, rfl⟩, ?_⟩
    rw [slotOf_held ht hk]
    rfl

/-- Where R52 places the answer of a slot in no chain: at its own number. -/
theorem answerPlace_alone {s : State} {j : Fin 16} (hc : chainOf s j = none) : answerPlace s j = (j.val, 0) := by
  rw [answerPlace, hc]
  split <;> simp_all

/-- Where R52 places the answer of a chain's slot: at the chain's lowest slot, and there by its place in the chain. -/
theorem answerPlace_member {s : State} {j k : Fin 16} {h : Hold} {w : Fin 24} (hj : s.hold.slots[j].hold = some h)
    (hc : chainOf s j = some w) (hk : (List.finRange 16).find? (fun i => chainOf s i = some w) = some k) :
    answerPlace s j = (k.val, s.chains[w].idxOf h.req.tag) := by
  simp only [answerPlace, hj, hc, hk, Option.getD_some]

/-- A chain's lowest slot is one of its slots, at or below all of them. -/
theorem lowestOfChain_iff {s : State} {w : Fin 24} {k : Fin 16} :
    (List.finRange 16).find? (fun i => chainOf s i = some w) = some k ↔
      chainOf s k = some w ∧ ∀ i, chainOf s i = some w → k ≤ i := by
  rw [findFin_some]
  simp only [decide_eq_true_eq, decide_eq_false_iff_not]
  exact and_congr_right fun _ => ⟨fun h i hi => not_lt.mp fun hlt => h i hlt hi, fun h i hlt hi => not_le.mpr hlt (h i hi)⟩

/-- Every chain with a slot has a lowest one. -/
theorem exists_lowestOfChain {s : State} {w : Fin 24} {j : Fin 16} (hj : chainOf s j = some w) :
    ∃ k, (List.finRange 16).find? (fun i => chainOf s i = some w) = some k := by
  cases h : (List.finRange 16).find? (fun i => chainOf s i = some w) with
  | some k => exact ⟨k, rfl⟩
  | none => exact absurd hj (by simpa using findFin_none.mp h j)

/-- In lawful traffic the group at a slot holds the HELD slots that R52 places there. -/
theorem mem_groupAt {s : State} (ht : s.TrafficLawful) {k j : Fin 16} :
    j ∈ groupAt s k ↔ s.hold.slots[j].hold ≠ none ∧ (answerPlace s j).1 = k.val := by
  have place : ∀ {w}, chainOf s j = some w → ∀ {m}, (List.finRange 16).find? (fun i => chainOf s i = some w) = some m →
      (answerPlace s j).1 = m.val := by
    intro w hc m hm
    obtain ⟨h, p, hj, -⟩ := chainOf_eq_some.mp hc
    rw [answerPlace_member hj hc hm]
  constructor
  · intro hm
    unfold groupAt at hm
    split at hm
    · cases hm
    · rename_i h hk
      split at hm
      · rename_i hall
        cases hc : chainOf s k with
        | none =>
          rw [chainSlots_alone hk hc, List.mem_singleton] at hm
          subst hm
          exact ⟨by rw [hk]; simp, by rw [answerPlace_alone hc]⟩
        | some w =>
          rw [chainSlots_member hk hc] at hm hall
          have hj := (mem_memberSlots ht).mp hm
          obtain ⟨x, -, hx, -⟩ := chainOf_eq_some.mp hj
          refine ⟨by rw [hx]; simp, place hj (lowestOfChain_iff.mpr ⟨hc, fun i hi => ?_⟩)⟩
          simpa using List.all_eq_true.mp hall i ((mem_memberSlots ht).mpr hi)
      · cases hm
  · rintro ⟨hj, hp⟩
    obtain ⟨x, hx⟩ := Option.ne_none_iff_exists'.mp hj
    cases hc : chainOf s j with
    | none =>
      rw [answerPlace_alone hc] at hp
      obtain rfl : j = k := Fin.ext hp
      unfold groupAt
      simp only [hx, chainSlots_alone hx hc]
      simp
    | some w =>
      obtain ⟨m, hm⟩ := exists_lowestOfChain hc
      obtain rfl : m = k := Fin.ext ((place hc hm).symm.trans hp)
      obtain ⟨hcm, hlow⟩ := lowestOfChain_iff.mp hm
      obtain ⟨h, -, hk, -⟩ := chainOf_eq_some.mp hcm
      have hall : (memberSlots s w).all (fun i => m ≤ i) = true :=
        List.all_eq_true.mpr fun i hi => by simpa using hlow i ((mem_memberSlots ht).mp hi)
      unfold groupAt
      simp only [hk, chainSlots_member hk hcm, hall, if_true]
      exact (mem_memberSlots ht).mpr hc

/-- In a chain without repeats the members come by their place in it. -/
theorem pairwise_idxOf {l : List (Fin 32)} (h : l.Nodup) : l.Pairwise fun t u => l.idxOf t < l.idxOf u := by
  rw [List.pairwise_iff_getElem]
  intro i j hi hj hij
  rw [h.idxOf_getElem i hi, h.idxOf_getElem j hj]
  exact hij

/-- Within a group the slots come by their place in the chain (R52). -/
theorem groupAt_pairwise {s : State} (ht : s.TrafficLawful) (k : Fin 16) :
    (groupAt s k).Pairwise fun i j => (answerPlace s i).2 < (answerPlace s j).2 := by
  unfold groupAt
  split
  · exact .nil
  · rename_i h hk
    split
    · cases hc : chainOf s k with
      | none =>
        rw [chainSlots_alone hk hc]
        exact List.pairwise_singleton _ _
      | some w =>
        obtain ⟨-, ⟨hnodup, -⟩, -⟩ := id ht
        rw [chainSlots_member hk hc, memberSlots, List.pairwise_filterMap]
        refine (List.Pairwise.and_mem.mp (pairwise_idxOf (hnodup w))).imp ?_
        rintro t u ⟨htm, hum, hlt⟩ i hi j hj
        have second : ∀ {t i}, t ∈ s.chains[w] → (s.slotOf t).map (fun x => x.1) = some i →
            (answerPlace s i).2 = s.chains[w].idxOf t := by
          intro t i htm hi
          have hci : chainOf s i = some w := (mem_memberSlots ht).mp (List.mem_filterMap.mpr ⟨t, htm, hi⟩)
          obtain ⟨⟨i, x⟩, hs, rfl⟩ := Option.map_eq_some_iff.mp hi
          obtain ⟨hx, rfl⟩ := slotOf_tag ht hs
          obtain ⟨m, hm⟩ := exists_lowestOfChain hci
          rw [answerPlace_member hx hci hm]
        rw [second htm hi, second hum hj]
        exact hlt
    · exact .nil

/-- In lawful traffic the order of a clearall completion is that of R52. -/
theorem clearOrder_pairwise {s : State} (ht : s.TrafficLawful) :
    s.clearOrder.Pairwise fun i j => Prod.Lex (· < ·) (· < ·) (answerPlace s i) (answerPlace s j) := by
  rw [clearOrder_eq, List.pairwise_flatMap]
  refine ⟨fun k _ => ?_, ?_⟩
  · refine (List.Pairwise.and_mem.mp (groupAt_pairwise ht k)).imp ?_
    rintro i j ⟨hi, hj, hlt⟩
    rw [Prod.lex_def, ((mem_groupAt ht).mp hi).2, ((mem_groupAt ht).mp hj).2]
    exact .inr ⟨rfl, hlt⟩
  · refine (List.sortedLT_finRange 16).pairwise.imp ?_
    intro k m hkm i hi j hj
    rw [Prod.lex_def, ((mem_groupAt ht).mp hi).2, ((mem_groupAt ht).mp hj).2]
    exact .inl hkm

/-- In lawful traffic that order names every HELD slot. -/
theorem mem_clearOrder {s : State} (ht : s.TrafficLawful) {j : Fin 16} (hj : s.hold.slots[j].hold ≠ none) :
    j ∈ s.clearOrder := by
  have hlt : (answerPlace s j).1 < 16 := by
    cases hc : chainOf s j with
    | none =>
      rw [answerPlace_alone hc]
      exact j.isLt
    | some w =>
      obtain ⟨h, -, hh, -⟩ := chainOf_eq_some.mp hc
      obtain ⟨m, hm⟩ := exists_lowestOfChain hc
      rw [answerPlace_member hh hc hm]
      exact m.isLt
  rw [clearOrder_eq, List.mem_flatMap]
  exact ⟨⟨_, hlt⟩, List.mem_finRange _, (mem_groupAt ht).mpr ⟨hj, rfl⟩⟩

/-- The slots that a clearall completion refuses, in order. -/
abbrev clearedSlots (s : State) : List (Fin 16) := refusedOf s (s.clearOrder ++ List.finRange 16)

/-- Every HELD slot is refused once (R52). -/
theorem clearedSlots_perm (s : State) :
    (clearedSlots s).Perm ((List.finRange 16).filter fun k => s.hold.slots[k].hold.isSome) := by
  rw [List.perm_ext_iff_of_nodup (refusedOf_nodup _ _) ((List.nodup_finRange 16).filter _)]
  intro j
  simp only [mem_refusedOf, List.mem_append, List.mem_finRange, or_true, true_and, List.mem_filter,
    Option.isSome_iff_ne_none]

/-- In lawful traffic they come in the order of R52. -/
theorem clearedSlots_pairwise {s : State} (ht : s.TrafficLawful) :
    (clearedSlots s).Pairwise fun i j => Prod.Lex (· < ·) (· < ·) (answerPlace s i) (answerPlace s j) := by
  rw [clearedSlots, refusedOf_append fun j hj => mem_clearOrder ht hj]
  exact (clearOrder_pairwise ht).sublist (refusedOf_sublist _ _)

/-! ### Every block (R184) -/

/-- A completion of clearall with no request withheld: every block of the part, from the slots refused. -/
theorem completeClearall_open {s : State} {q : Byte} (hp : s.port.phase = .busy (.clearall q)) (h : s.host.stalled = none) :
    completeClearall s =
      { s with
        windows := { State.reset.windows with generation := s.windows.generation + 1 }
        hold := { slots := s.refuseAll.hold.slots, timeouts := Config.defaultTimeouts }
        chains := Vector.replicate 24 []
        host :=
          { s.host with
            tags := tableMap (fun _ e => e.map fun x => { x with member := false }) s.refuseAll.host.tags
            sent := s.refuseAll.host.sent }
        image := State.reset.image
        notices := { entries := [], presented := false, counter := s.notices.counter, attn := false }
        port := completed s.port 0x71 q .done [s.windows.generation + 1] } := by
  have hframe := refuse_frame s (s.clearOrder ++ List.finRange 16)
  have hblocks : s.clearBlocks =
      { s with
        windows := { State.reset.windows with generation := s.windows.generation + 1 }
        hold := { slots := s.refuseAll.hold.slots, timeouts := Config.defaultTimeouts }
        chains := Vector.replicate 24 []
        host :=
          { s.host with
            tags := tableMap (fun _ e => e.map fun x => { x with member := false }) s.refuseAll.host.tags
            sent := s.refuseAll.host.sent }
        image := State.reset.image
        notices := { entries := [], presented := false, counter := s.notices.counter, attn := false } } := by
    unfold State.clearBlocks
    rw [show s.refuseAll = _ from hframe]
    rfl
  simp only [completeClearall, hp]
  rw [reportFreeing_open, hblocks]
  · rfl
  · rw [hblocks]
    exact h

/-- Settles O52: the refused slots are the HELD ones, once each, in the order of R52, and every block is as the completion leaves it. -/
theorem clearallCompletesInEveryBlock : Obligations.ClearallCompletesInEveryBlock := by
  intro q s hr hp hs
  rw [exec_clearallCompletion, running_high hr, completeClearall_open hp hs]
  refine ⟨_, clearedSlots s, rfl, rfl, fun k => ?_, rfl,
    clearedSlots_perm s, clearedSlots_pairwise, refuse_sent _ _, hs, fun k h hk => ?_, fun u hu => ?_, rfl, rfl, rfl, rfl, rfl,
    rfl, rfl⟩
  · have hmem : k ∈ s.clearOrder ++ List.finRange 16 := List.mem_append_right _ (List.mem_finRange k)
    exact (refuse_slots s _ k).trans (if_pos hmem)
  · dsimp only
    rw [tableMap_get, State.refuseAll, refuse_tag_held s (List.mem_append_right _ (List.mem_finRange k)) hk]
    rfl
  · dsimp only
    rw [tableMap_get, State.refuseAll, refuse_tag_other s _ hu]

end Sys2Proof.Machine
end

section
/-! The operations that neither read nor write the stall, the port and the pin: each commutes with replacing these three. What an event of a
STALLED part does is told from what it does with the link OPEN by these equations (R148). -/

namespace Sys2Proof.Machine

open Claims

set_option Elab.async false

/-- A state with another stall, port and pin. -/
def State.framed (s : State) (x : Option HostRequest) (p : ServicePort) (n : PinLevel) : State :=
  { s with host := { s.host with stalled := x }, port := p, resetn := n }

/-- An operation that neither reads nor writes stall, port and pin. -/
def Steady (f : State → State) : Prop := ∀ s x p n, f (s.framed x p n) = (f s).framed x p n

variable (s : State) (x : Option HostRequest) (p : ServicePort) (n : PinLevel)

@[simp] theorem framed_windows : (s.framed x p n).windows = s.windows := rfl
@[simp] theorem framed_hold : (s.framed x p n).hold = s.hold := rfl
@[simp] theorem framed_chains : (s.framed x p n).chains = s.chains := rfl
@[simp] theorem framed_notices : (s.framed x p n).notices = s.notices := rfl
@[simp] theorem framed_image : (s.framed x p n).image = s.image := rfl
@[simp] theorem framed_issue : (s.framed x p n).issue = s.issue := rfl
@[simp] theorem framed_tags : (s.framed x p n).host.tags = s.host.tags := rfl
@[simp] theorem framed_stalled : (s.framed x p n).host.stalled = x := rfl
@[simp] theorem framed_port : (s.framed x p n).port = p := rfl
@[simp] theorem framed_resetn : (s.framed x p n).resetn = n := rfl

/-- A state is itself with its own stall, port and pin. -/
theorem framed_self : s.framed s.host.stalled s.port s.resetn = s := rfl

/-- What a steady operation leaves: stall, port and pin. -/
theorem Steady.keeps {f : State → State} (h : Steady f) :
    (f s).host.stalled = s.host.stalled ∧ (f s).port = s.port ∧ (f s).resetn = s.resetn := by
  have he := h s s.host.stalled s.port s.resetn
  rw [framed_self] at he
  rw [he]
  exact ⟨rfl, rfl, rfl⟩

/-! ### Updates of one block -/

@[simp] theorem setHold_framed (h : HoldTable) : (s.framed x p n).setHold h = (s.setHold h).framed x p n := rfl
@[simp] theorem setWindows_framed (t : WindowTable) : (s.framed x p n).setWindows t = (s.setWindows t).framed x p n := rfl
@[simp] theorem setChain_framed (w : Fin 24) (l : List (Fin 32)) : (s.framed x p n).setChain w l = (s.setChain w l).framed x p n := rfl
@[simp] theorem setNotices_framed (q : NoticeQueue) : (s.framed x p n).setNotices q = (s.setNotices q).framed x p n := rfl
@[simp] theorem setImage_framed (m : ImageStore) : (s.framed x p n).setImage m = (s.setImage m).framed x p n := rfl
@[simp] theorem setIssue_framed (u : IssueUnit) : (s.framed x p n).setIssue u = (s.setIssue u).framed x p n := rfl
@[simp] theorem post_framed (d : Detail) : (s.framed x p n).post d = (s.post d).framed x p n := rfl
@[simp] theorem respond_framed (t : Fin 32) (st : HostStatus) (d : List Byte) :
    (s.framed x p n).respond t st d = (s.respond t st d).framed x p n := rfl
@[simp] theorem setTag_framed (t : Fin 32) (e : Option TagEntry) : (s.framed x p n).setTag t e = (s.setTag t e).framed x p n := rfl
@[simp] theorem moveTag_framed (t : Fin 32) (a : TagPlace) : (s.framed x p n).moveTag t a = (s.moveTag t a).framed x p n := rfl
@[simp] theorem enqueue_framed (e : IssueEntry) : (s.framed x p n).enqueue e = (s.enqueue e).framed x p n := rfl
@[simp] theorem putHold_framed (k : Fin 16) (h : Hold) : (s.framed x p n).putHold k h = (s.putHold k h).framed x p n := rfl
@[simp] theorem holdDefer_framed (k : Fin 16) (h : Hold) : (s.framed x p n).holdDefer k h = (s.holdDefer k h).framed x p n := rfl
@[simp] theorem holdImageWait_framed (k : Fin 16) (h : Hold) (g : Fin 16) :
    (s.framed x p n).holdImageWait k h g = (s.holdImageWait k h g).framed x p n := rfl
@[simp] theorem freeMemTag_framed (m : Fin 16) : (s.framed x p n).freeMemTag m = (s.freeMemTag m).framed x p n := rfl

/-! ### Slots, SERVE, chains and wait lists -/

@[simp] theorem freeSlot_framed (k : Fin 16) (o : LastOutcome) :
    (s.framed x p n).freeSlot k o = (s.freeSlot k o).framed x p n := by
  cases hk : s.hold.slots[k].hold with
  | none => rw [freeSlot_free hk, freeSlot_free (s := s.framed x p n) hk]
  | some h =>
    rw [freeSlot_held hk, freeSlot_held (s := s.framed x p n) hk]
    rfl

@[simp] theorem answerSlot_framed (k : Fin 16) (h : Hold) (st : HostStatus) (d : List Byte) (o : LastOutcome) :
    (s.framed x p n).answerSlot k h st d o = (s.answerSlot k h st d o).framed x p n := by
  simp only [State.answerSlot, respond_framed, freeSlot_framed, setTag_framed]

@[simp] theorem forwardSlot_framed (k : Fin 16) (h : Hold) (e : IssueEntry) (o : LastOutcome) :
    (s.framed x p n).forwardSlot k h e o = (s.forwardSlot k h e o).framed x p n := by
  simp only [State.forwardSlot, enqueue_framed, freeSlot_framed, moveTag_framed]

@[simp] theorem serve_framed (g : Fin 16) (q : Nat) (r : HostRequest) :
    (s.framed x p n).serve g q r = ((s.serve g q r).1.framed x p n, (s.serve g q r).2) := by
  cases hl : s.image.segments[g].live with
  | none =>
    simp only [State.serve, framed_image, hl]
    rfl
  | some l =>
    simp only [State.serve, framed_image, hl]
    split_ifs <;> rfl

@[simp] theorem answerServed_framed (k : Fin 16) (h : Hold) (o : Option (List Byte)) :
    (s.framed x p n).answerServed k h o = (s.answerServed k h o).framed x p n := by
  cases o <;> exact answerSlot_framed s x p n _ _ _ _ _

@[simp] theorem slotOf_framed (t : Fin 32) : (s.framed x p n).slotOf t = s.slotOf t := rfl

@[simp] theorem startHead_framed (k : Fin 16) (h : Hold) :
    (s.framed x p n).startHead k h = ((s.startHead k h).1.framed x p n, (s.startHead k h).2) := by
  cases hr : h.decision.ruling with
  | pass => simp only [State.startHead, hr, forwardSlot_framed]
  | defer => simp only [State.startHead, hr, holdDefer_framed]
  | deny => simp only [State.startHead, hr, answerSlot_framed]
  | discard => simp only [State.startHead, hr, answerSlot_framed]
  | serve g q =>
    simp only [State.startHead, hr, framed_image, serve_framed, answerServed_framed, holdImageWait_framed]
    split_ifs <;> rfl

@[simp] theorem cascade_framed (w : Fin 24) (l : List (Fin 32)) :
    (s.framed x p n).cascade w l = (s.cascade w l).framed x p n := by
  induction l generalizing s with
  | nil => rfl
  | cons t rest ih =>
    unfold State.cascade
    rw [slotOf_framed]
    cases s.slotOf t with
    | none => rfl
    | some y =>
      obtain ⟨k, h⟩ := y
      simp only [startHead_framed]
      rcases s.startHead k h with ⟨t', goes⟩
      cases goes with
      | false => rfl
      | true => exact ih t'

@[simp] theorem advance_framed (t : Fin 32) (e : Option TagEntry) :
    (s.framed x p n).advance t e = (s.advance t e).framed x p n := by
  rcases e with _ | ⟨a, _ | w, _ | _⟩
  case some.some.true =>
    simp only [State.advance, framed_chains]
    cases s.chains[w] with
    | nil => rfl
    | cons u rest =>
      dsimp only
      split_ifs
      · exact cascade_framed ..
      · rfl
  all_goals rfl

@[simp] theorem endHold_framed (k : Fin 16) (h : Hold) (st : HostStatus) (d : List Byte) (o : LastOutcome) :
    (s.framed x p n).endHold k h st d o = (s.endHold k h st d o).framed x p n := by
  simp only [State.endHold, answerSlot_framed, framed_tags, advance_framed]

@[simp] theorem workMember_framed (g k : Fin 16) :
    State.workMember g (s.framed x p n) k = (State.workMember g s k).framed x p n := by
  simp only [State.workMember, framed_image, setImage_framed, framed_hold, State.setImage_hold, State.setImage_image,
    setWaiting_live]
  cases s.hold.slots[k].hold with
  | none => rfl
  | some h =>
    simp only [serve_framed, answerServed_framed, framed_tags, advance_framed, endHold_framed]
    rcases s.image.segments[g].live with _ | ⟨_ | _ | _, b, l, c⟩
    case some.ready => cases h.decision.ruling <;> rfl
    all_goals rfl

theorem foldl_framed {α : Type} {f : State → α → State} (hf : ∀ a, Steady (f · a)) (l : List α) :
    l.foldl f (s.framed x p n) = (l.foldl f s).framed x p n := by
  induction l generalizing s with
  | nil => rfl
  | cons a rest ih => exact (congrArg (List.foldl f · rest) (hf a s x p n)).trans (ih (f s a))

@[simp] theorem workThrough_framed (g : Fin 16) : (s.framed x p n).workThrough g = (s.workThrough g).framed x p n :=
  foldl_framed s x p n (fun k s x p n => workMember_framed s x p n g k) _

/-! ### What frees slots -/

theorem expire_framed (k : Fin 16) (h : Hold) : (s.framed x p n).expire k h = (s.expire k h).framed x p n := by
  simp only [State.expire, framed_image, setImage_framed, framed_hold]
  cases h.decision.expiryAction with
  | expire => simp only [answerSlot_framed, post_framed, framed_tags, advance_framed]
  | forward => simp only [forwardSlot_framed, post_framed]

theorem judge_framed (g : Fin 16) (l : Live) (c : Word32) : (s.framed x p n).judge g l c = (s.judge g l c).framed x p n := by
  have hcrc : (s.framed x p n).image.crcOf l = s.image.crcOf l := rfl
  by_cases hc : s.image.crcOf l = c
  · rw [State.judge, State.judge, if_pos hc, if_pos (hcrc.trans hc)]
    rfl
  · rw [State.judge, State.judge, if_neg hc, if_neg (hcrc ▸ hc)]
    rfl

theorem refuseSlot_framed (k : Fin 16) : (s.framed x p n).refuseSlot k = (s.refuseSlot k).framed x p n := by
  cases hk : s.hold.slots[k].hold with
  | none => rw [refuseSlot_free hk, refuseSlot_free (s := s.framed x p n) hk]
  | some h =>
    rw [refuseSlot_held hk, refuseSlot_held (s := s.framed x p n) hk]
    rfl

theorem clearBlocks_framed : (s.framed x p n).clearBlocks = s.clearBlocks.framed x p n := by
  have hall : (s.framed x p n).refuseAll = s.refuseAll.framed x p n :=
    foldl_framed s x p n (fun k s x p n => refuseSlot_framed s x p n k) _
  unfold State.clearBlocks
  rw [hall]
  rfl

/-! ### Admission to a window (R142, R143) -/

theorem countAccepted_framed (w : Fin 24) (o : Op) :
    (s.framed x p n).countAccepted w o = (s.countAccepted w o).framed x p n := by
  rw [countAccepted_eq, countAccepted_eq]
  rfl

theorem enter_framed (t : Fin 32) (w : Fin 24) (a : TagPlace) : (s.framed x p n).enter t w a = (s.enter t w a).framed x p n := by
  rw [enter_eq, enter_eq]
  rfl

theorem dispatch_framed (r : HostRequest) (d : Decision) (k : Option (Fin 16)) :
    (s.framed x p n).dispatch r d k = (s.dispatch r d k).framed x p n := by
  have ho : (s.framed x p n).needsOrder d.window = s.needsOrder d.window := rfl
  cases hn : s.needsOrder d.window with
  | true => cases k <;> simp only [State.dispatch, ho, hn, putHold_framed, enter_framed]
  | false =>
    cases hr : d.ruling with
    | pass => simp only [State.dispatch, ho, hn, hr, enqueue_framed, enter_framed]
    | defer => cases k <;> simp only [State.dispatch, ho, hn, hr, holdDefer_framed, enter_framed]
    | deny => simp only [State.dispatch, ho, hn, hr, respond_framed]
    | discard => simp only [State.dispatch, ho, hn, hr, respond_framed]
    | serve g q =>
      simp only [State.dispatch, ho, hn, hr, framed_image, serve_framed, respond_framed]
      split_ifs
      · cases k <;> simp only [holdImageWait_framed, enter_framed]
      · cases (s.serve g q r).2 <;> rfl

theorem dispatchDefault_framed (r : HostRequest) : (s.framed x p n).dispatchDefault r = (s.dispatchDefault r).framed x p n := by
  simp only [State.dispatchDefault, framed_windows]
  cases s.windows.activeDefault.policyFor r.op <;> rfl

/-- With a slot FREE, the evaluation of a request opens the link, and is the same whatever the stall, the port and the pin were: the
withheld request's fresh evaluation is the evaluation of an offer (R148). -/
theorem evaluate_framed {s : State} (h : s.hold.lowestFree ≠ none) (b : Bool) (r : HostRequest) :
    (s.framed x p n).evaluate b r = (s.evaluate false r).framed none p n := by
  by_cases ht : s.host.tags[r.tag].isSome = true
  · rw [evaluate_clash ht, evaluate_clash (s := s.framed x p n) ht]
    rfl
  · have htag : s.host.tags[r.tag] = none := by simpa using ht
    by_cases hm : malformed r = true
    · rw [evaluate_malformed htag hm, evaluate_malformed (s := s.framed x p n) htag hm]
      rfl
    · have hmal : malformed r = false := by simpa using hm
      by_cases hs : s.windows.straddles (s.windows.matched r.addr) r.addr r.len.toNat = true
      · rw [evaluate_straddle htag hmal hs, evaluate_straddle (s := s.framed x p n) htag hmal hs]
        rfl
      · have hstr : s.windows.straddles (s.windows.matched r.addr) r.addr r.len.toNat = false := by simpa using hs
        have hopen : (s.framed x p n).openLink = s.openLink.framed none p n := rfl
        cases hw : s.windows.matched r.addr with
        | none =>
          rw [hw] at hstr
          rw [evaluate_default htag hmal hw hstr, evaluate_default (s := s.framed x p n) htag hmal hw hstr, hopen,
            dispatchDefault_framed]
        | some w =>
          rw [hw] at hstr
          have hslot : s.hold.lowestFree.isNone = false := by
            rw [Option.isNone_eq_false_iff, Option.isSome_iff_ne_none]
            exact h
          rw [evaluate_window htag hmal hw hstr, evaluate_window (s := s.framed x p n) htag hmal hw hstr, hopen,
            countAccepted_framed, dispatch_framed]
          simp only [framed_hold, hslot, Bool.and_false, Bool.false_eq_true, if_false]
          rfl

end Sys2Proof.Machine
end

section
/-! Events of a STALLED part (R148): each does what it does with the link OPEN, and where a slot is FREE after it, the withheld request is
offered to the OPEN link. -/

namespace Sys2Proof.Machine

open Claims

set_option Elab.async false

/-! ### The stall and its end -/

/-- The part runs with the link OPEN and every slot HELD, as it is when a request is withheld but for the stall (R32, R146). -/
def Crowded (s : State) : Prop := s.resetn = .high ∧ s.host.stalled = none ∧ ∀ k : Fin 16, s.hold.slots[k].hold ≠ none

/-- The same part with the link STALLED on a request (R146). -/
abbrev State.stalledOn (s : State) (r : HostRequest) : State := s.framed (some r) s.port s.resetn

/-- What an event leaves that withheld a request: STALLED still where every slot is HELD, and else the request's offer taken (R148). -/
def State.resumed (t : State) (r : HostRequest) : State :=
  if t.hold.lowestFree = none then t.stalledOn r else t.evaluate false r

/-- An event left t with the link OPEN, and t' where it was STALLED on r. -/
def Resumed (r : HostRequest) (t t' : State) : Prop := t.resetn = .high ∧ t.host.stalled = none ∧ t' = t.resumed r

/-- A body answered alike, and left states as Resumed says. -/
def AnswerResumed (r : HostRequest) (a a' : Answer) : Prop :=
  a'.result = a.result ∧ a'.payload = a.payload ∧ Resumed r a.after a'.after

section resuming

variable {s t t' : State} {r : HostRequest}

/-- An update that frees no slot leaves the request withheld. -/
theorem Crowded.resumed (h : Crowded s) : Resumed r s (s.stalledOn r) := by
  obtain ⟨hr, ho, hheld⟩ := h
  refine ⟨hr, ho, ?_⟩
  rw [State.resumed, if_pos (lowestFree_eq_none.mpr hheld)]

/-- A body that frees no slot answers alike and leaves the request withheld. -/
theorem Crowded.answers {x : Result} {d : List Byte} (h : Crowded t) :
    AnswerResumed r { result := x, payload := d, after := t } { result := x, payload := d, after := t.stalledOn r } :=
  ⟨rfl, rfl, h.resumed⟩

theorem Crowded.putHold (h : Crowded s) (k : Fin 16) (x : Hold) : Crowded (s.putHold k x) := by
  obtain ⟨hr, ho, hheld⟩ := h
  refine ⟨hr, ho, fun j => ?_⟩
  have hset : (s.putHold k x).hold.slots[j] = if k = j then { s.hold.slots[k] with hold := some x } else s.hold.slots[j] :=
    table_set_get _ _ _ _
  rw [hset]
  split
  · simp
  · exact hheld j

/-- With every slot HELD before, fewer are HELD after exactly where one is FREE (R32). -/
theorem heldCount_lt_iff (hs : ∀ k : Fin 16, s.hold.slots[k].hold ≠ none) :
    t.hold.heldCount < s.hold.heldCount ↔ t.hold.lowestFree ≠ none := by
  have full : ∀ h : HoldTable, h.heldCount = 16 ↔ h.lowestFree = none := by
    intro h
    rw [HoldTable.heldCount, countWhere_eq, lowestFree_eq_none]
    have hlen : (List.finRange 16).length = 16 := List.length_finRange
    conv_lhs => rhs; rw [← hlen]
    rw [List.countP_eq_length]
    simp only [List.mem_finRange, true_implies, Option.isSome_iff_ne_none]
  have hle : t.hold.heldCount ≤ 16 := by
    rw [HoldTable.heldCount, countWhere_eq]
    exact List.countP_le_length.trans (by simp)
  have h16 : s.hold.heldCount = 16 := (full s.hold).mpr (lowestFree_eq_none.mpr hs)
  rw [ne_eq, ← full t.hold, h16]
  omega

theorem resumed_of_held (h : t.hold.lowestFree = none) : t.resumed r = t.stalledOn r := if_pos h

theorem resumed_of_free (h : t.hold.lowestFree ≠ none) : t.resumed r = t.evaluate false r := if_neg h

/-- Where fewer slots are HELD than before, the withheld request is evaluated afresh (R148). -/
theorem reportFreeing_freed {b : State} (h : t.host.stalled = some r) (hlt : t.hold.heldCount < b.hold.heldCount) :
    t.reportFreeing b = t.evaluate true r := by
  simp only [State.reportFreeing, h]
  exact if_pos hlt

/-- Where no fewer slots are HELD than before, the request stays withheld (R148). -/
theorem reportFreeing_held {b : State} (hlt : ¬ t.hold.heldCount < b.hold.heldCount) : t.reportFreeing b = t := by
  cases h : t.host.stalled with
  | none => exact reportFreeing_open b h
  | some q =>
    simp only [State.reportFreeing, h]
    exact if_neg hlt

/-- An operation that neither reads nor writes the stall, with the freeing it reports: the withheld request is offered afresh where it
freed a slot (R148). -/
theorem Steady.report {f : State → State} (hf : Steady f) (hs : Crowded s) (r : HostRequest) :
    Resumed r ((f s).reportFreeing s) ((f (s.stalledOn r)).reportFreeing (s.stalledOn r)) := by
  obtain ⟨hr, ho, hheld⟩ := hs
  obtain ⟨hstall, hport, hpin⟩ := hf.keeps s
  have hopen : (f s).host.stalled = none := hstall.trans ho
  rw [reportFreeing_open _ hopen]
  refine ⟨hpin.trans hr, hopen, ?_⟩
  rw [hf]
  have hkeep : (f s).framed (some r) s.port s.resetn = (f s).stalledOn r := by rw [State.stalledOn, hport, hpin]
  rw [hkeep]
  by_cases hfree : (f s).hold.lowestFree = none
  · rw [resumed_of_held hfree]
    exact reportFreeing_held (t := (f s).stalledOn r) ((heldCount_lt_iff hheld).not.mpr (not_not.mpr hfree))
  · rw [resumed_of_free hfree, reportFreeing_freed (t := (f s).stalledOn r) (b := s.stalledOn r) (r := r) rfl ((heldCount_lt_iff hheld).mpr hfree),
      evaluate_framed _ _ _ hfree]
    have hsame := evaluate_framed (f s).host.stalled (f s).port (f s).resetn hfree false r
    rw [framed_self] at hsame
    exact hsame.symm

/-- Writing the port before the withheld request's offer or after it is the same. -/
theorem Resumed.setPort (h : Resumed r t t') (g : ServicePort → ServicePort) :
    Resumed r (t.setPort (g t.port)) (t'.setPort (g t'.port)) := by
  obtain ⟨hr, ho, rfl⟩ := h
  refine ⟨hr, ho, ?_⟩
  by_cases hfree : t.hold.lowestFree = none
  · rw [resumed_of_held hfree, resumed_of_held (t := t.setPort (g t.port)) hfree]
    rfl
  · rw [resumed_of_free hfree, resumed_of_free (t := t.setPort (g t.port)) hfree]
    have hsame := evaluate_framed t.host.stalled t.port t.resetn hfree false r
    have hset := evaluate_framed t.host.stalled (g t.port) t.resetn hfree false r
    rw [framed_self] at hsame
    have hport : (t.evaluate false r).port = t.port := by rw [hsame]; rfl
    have hpin : (t.evaluate false r).resetn = t.resetn := by rw [hsame]; rfl
    have hstall : (t.evaluate false r).host.stalled = none := by rw [hsame]; rfl
    rw [show t.setPort (g t.port) = t.framed t.host.stalled (g t.port) t.resetn from rfl, hset, hport, ← hpin, ← hstall]
    rfl

theorem Resumed.makeReady (h : Resumed r t t') (c q : Byte) (x : Result) (d : List Byte) :
    Resumed r (t.makeReady c q x d) (t'.makeReady c q x d) :=
  h.setPort fun p =>
    { p with
      phase := .ready { code := c, seq := q, result := x, dropped := p.dropped, overwritten := p.overwritten, payload := d }
      dropped := false
      overwritten := false }

/-- An immediate command resumes where its body does. -/
theorem AnswerResumed.immediately {b : State → Answer} (c : Command) (q : Byte) (h : AnswerResumed r (b s) (b (s.stalledOn r))) :
    Resumed r (s.immediately c q b) ((s.stalledOn r).immediately c q b) := by
  obtain ⟨hres, hpay, hafter⟩ := h
  simp only [State.immediately, hres, hpay]
  exact hafter.makeReady _ _ _ _

/-- A frame taken resumes where its handling does, whatever the port (R169, R174, R175). -/
theorem takeFrame_resumed {f : State → State} (hs : Crowded s) (m : Nat)
    (hf : ∀ p, Resumed r (f (s.setPort p)) (f ((s.setPort p).stalledOn r))) :
    Resumed r (s.takeFrame m f) ((s.stalledOn r).takeFrame m f) := by
  rcases hp : s.port with ⟨ph, d, o, b⟩
  cases ph with
  | busy c =>
    rw [takeFrame_busy (c := c) (by rw [hp]), takeFrame_busy (s := s.stalledOn r) (c := c) (by rw [framed_port, hp])]
    exact Crowded.resumed hs
  | idle =>
    have h := hf { phase := .idle, dropped := d, overwritten := o, miso := b ++ [List.replicate m 0] }
    simpa [State.takeFrame, State.shiftOut, State.setPort, State.framed, hp] using h
  | ready x =>
    have h := hf { phase := .idle, dropped := d, overwritten := true, miso := b ++ [List.replicate m 0] }
    simpa [State.takeFrame, State.shiftOut, State.setPort, State.framed, hp] using h

end resuming

end Sys2Proof.Machine
end

section
/-! The commands of a STALLED part (R148): what each answers, and that it resumes the withheld request where it frees a slot. -/

namespace Sys2Proof.Machine

open Claims

set_option Elab.async false

/-- Two choices by one condition are related where their branches are. -/
theorem ite_rel {α : Type} {R : α → α → Prop} {c c' : Prop} {i : Decidable c} {i' : Decidable c'} {a b a' b' : α} (hc : c ↔ c')
    (ht : R a a') (hf : R b b') : R (if c then a else b) (if c' then a' else b') := by
  by_cases h : c
  · rw [if_pos h, if_pos (hc.mp h)]
    exact ht
  · rw [if_neg h, if_neg (fun h' => h (hc.mpr h'))]
    exact hf

section bodies

variable {s : State} {r : HostRequest}

/-! ### Bodies that free no slot -/

theorem wsetBody_resumed (hs : Crowded s) (p : List Byte) : AnswerResumed r (wsetBody p s) (wsetBody p (s.stalledOn r)) := by
  cases p with
  | nil => exact Crowded.answers hs
  | cons i rest =>
    simp only [wsetBody, framed_image]
    cases indexOf 24 i with
    | none => exact Crowded.answers hs
    | some w =>
      cases WindowRecord.decode rest with
      | none => exact Crowded.answers hs
      | some x => exact ite_rel Iff.rfl (Crowded.answers hs) (Crowded.answers hs)

theorem wclearBody_resumed (hs : Crowded s) (p : List Byte) :
    AnswerResumed r (wclearBody p s) (wclearBody p (s.stalledOn r)) := by
  rcases p with _ | ⟨i, _ | _⟩
  case cons.nil =>
    simp only [wclearBody]
    cases indexOf 24 i <;> exact Crowded.answers hs
  all_goals exact Crowded.answers hs

theorem wdefaultBody_resumed (hs : Crowded s) (p : List Byte) :
    AnswerResumed r (wdefaultBody p s) (wdefaultBody p (s.stalledOn r)) := by
  rcases p with _ | ⟨x, _ | ⟨y, _ | _⟩⟩
  case cons.cons.nil =>
    simp only [wdefaultBody]
    cases DefaultPolicy.ofReadCode x <;> cases DefaultPolicy.ofCode y <;> exact Crowded.answers hs
  all_goals exact Crowded.answers hs

theorem wreadBody_resumed (hs : Crowded s) (p : List Byte) :
    AnswerResumed r (wreadBody p s) (wreadBody p (s.stalledOn r)) := by
  rcases p with _ | ⟨t, _ | ⟨i, _ | _⟩⟩
  case cons.cons.nil =>
    simp only [wreadBody]
    refine ite_rel Iff.rfl (ite_rel Iff.rfl (Crowded.answers hs) ?_)
      (ite_rel Iff.rfl (ite_rel Iff.rfl (Crowded.answers hs) ?_) (Crowded.answers hs)) <;>
    cases indexOf 24 i <;> exact Crowded.answers hs
  all_goals exact Crowded.answers hs

theorem wstatsBody_resumed (hs : Crowded s) (p : List Byte) :
    AnswerResumed r (wstatsBody p s) (wstatsBody p (s.stalledOn r)) := by
  rcases p with _ | ⟨i, _ | ⟨z, _ | _⟩⟩
  case cons.cons.nil =>
    simp only [wstatsBody]
    cases indexOf 24 i
    · exact Crowded.answers hs
    · exact ite_rel Iff.rfl (Crowded.answers hs) (Crowded.answers hs)
  all_goals exact Crowded.answers hs

theorem wzeroBody_resumed (hs : Crowded s) (p : List Byte) :
    AnswerResumed r (wzeroBody p s) (wzeroBody p (s.stalledOn r)) := by
  rcases p with _ | ⟨i, _ | _⟩
  case cons.nil =>
    simp only [wzeroBody]
    refine ite_rel Iff.rfl (Crowded.answers hs) ?_
    cases indexOf 24 i <;> exact Crowded.answers hs
  all_goals exact Crowded.answers hs

theorem tsetBody_resumed (hs : Crowded s) (p : List Byte) :
    AnswerResumed r (tsetBody p s) (tsetBody p (s.stalledOn r)) := by
  rcases p with _ | ⟨c, _ | ⟨v, _ | ⟨u, _ | _⟩⟩⟩
  case cons.cons.cons.nil =>
    simp only [tsetBody]
    cases indexOf 4 c
    · exact Crowded.answers hs
    · exact ite_rel Iff.rfl (Crowded.answers hs) (Crowded.answers hs)
  all_goals exact Crowded.answers hs

theorem sloadBody_resumed (hs : Crowded s) (p : List Byte) :
    AnswerResumed r (sloadBody p s) (sloadBody p (s.stalledOn r)) := by
  rcases p with _ | ⟨a, _ | ⟨b, _ | ⟨c, _ | ⟨d, _ | ⟨e, _ | _⟩⟩⟩⟩⟩
  case cons.cons.cons.cons.cons.nil =>
    simp only [sloadBody, framed_image]
    cases indexOf 16 a with
    | none => exact Crowded.answers hs
    | some g =>
      refine ite_rel Iff.rfl (Crowded.answers hs) ?_
      cases s.image.segments[g].live with
      | none =>
        dsimp only
        cases lowest (fun x => x.covers (fromLE [b, c]) (fromLE [d, e])) s.image.segments <;> exact Crowded.answers hs
      | some l =>
        exact ite_rel Iff.rfl (Crowded.answers hs) (ite_rel Iff.rfl (Crowded.answers hs) (Crowded.answers hs))
  all_goals exact Crowded.answers hs

theorem sdataBody_resumed (hs : Crowded s) (p : List Byte) :
    AnswerResumed r (sdataBody p s) (sdataBody p (s.stalledOn r)) := by
  rcases p with _ | ⟨a, _ | ⟨b, _ | ⟨c, data⟩⟩⟩
  case cons.cons.cons =>
    simp only [sdataBody, framed_image]
    refine ite_rel Iff.rfl (Crowded.answers hs) ?_
    cases indexOf 16 a with
    | none => exact Crowded.answers hs
    | some g =>
      refine ite_rel Iff.rfl (Crowded.answers hs) ?_
      cases s.image.segments[g].live with
      | none => exact Crowded.answers hs
      | some l =>
        exact ite_rel Iff.rfl (Crowded.answers hs) (ite_rel Iff.rfl (Crowded.answers hs)
          (ite_rel Iff.rfl (Crowded.answers hs) (Crowded.answers hs)))
  all_goals exact Crowded.answers hs

theorem sreadBody_resumed (hs : Crowded s) (p : List Byte) :
    AnswerResumed r (sreadBody p s) (sreadBody p (s.stalledOn r)) := by
  rcases p with _ | ⟨a, _ | ⟨b, _ | ⟨c, _ | ⟨n, _ | _⟩⟩⟩⟩
  case cons.cons.cons.cons.nil =>
    simp only [sreadBody, framed_image]
    cases indexOf 16 a with
    | none => exact Crowded.answers hs
    | some g =>
      refine ite_rel Iff.rfl (Crowded.answers hs) ?_
      cases s.image.segments[g].live with
      | none => exact Crowded.answers hs
      | some l => exact ite_rel Iff.rfl (Crowded.answers hs) (Crowded.answers hs)
  all_goals exact Crowded.answers hs

theorem sinfoBody_resumed (hs : Crowded s) (p : List Byte) :
    AnswerResumed r (sinfoBody p s) (sinfoBody p (s.stalledOn r)) := by
  rcases p with _ | ⟨a, _ | _⟩
  case cons.nil =>
    simp only [sinfoBody]
    cases indexOf 16 a <;> exact Crowded.answers hs
  all_goals exact Crowded.answers hs

/-! ### Notices fetched and acknowledged -/

theorem markHold_framed (x : Option HostRequest) (p : ServicePort) (m : PinLevel) (d : Detail) (n : NoticeState) :
    (s.framed x p m).markHold d n = (s.markHold d n).framed x p m := by
  cases d with
  | hold k u o w a l =>
    simp only [State.markHold, framed_hold]
    cases s.hold.slots[k].hold with
    | none => rfl
    | some h =>
      exact ite_rel (R := fun a b : State => a = b.framed x p m) Iff.rfl rfl rfl
  | _ => rfl

theorem Crowded.markHold (hs : Crowded s) (d : Detail) (n : NoticeState) : Crowded (s.markHold d n) := by
  cases d with
  | hold k u o w a l =>
    simp only [State.markHold]
    cases s.hold.slots[k].hold with
    | none => exact hs
    | some h =>
      dsimp only
      split_ifs
      · exact hs.putHold k _
      · exact hs
  | _ => exact hs

/-- An answer that marks the hold of a notice frees no slot. -/
theorem Crowded.marks {x : Result} {d : List Byte} {e : Detail} {n : NoticeState} (hs : Crowded s) :
    AnswerResumed r { result := x, payload := d, after := s.markHold e n }
      { result := x, payload := d, after := (s.stalledOn r).markHold e n } := by
  have hm := hs.markHold e n
  rw [State.stalledOn, markHold_framed]
  have hport : (s.markHold e n).port = s.port := by
    have h := markHold_framed (s := s) s.host.stalled s.port s.resetn e n
    rw [framed_self] at h
    rw [h]
    rfl
  have := (hm.answers (r := r) (x := x) (d := d))
  rw [State.stalledOn, hport, hm.1, ← hs.1] at this
  exact this

theorem nfetchBody_resumed (hs : Crowded s) (p : List Byte) :
    AnswerResumed r (nfetchBody p s) (nfetchBody p (s.stalledOn r)) := by
  simp only [nfetchBody, framed_notices]
  refine ite_rel Iff.rfl (Crowded.answers hs) ?_
  cases s.notices.entries with
  | nil => exact Crowded.answers hs
  | cons n rest => exact ite_rel Iff.rfl (Crowded.answers hs) (Crowded.marks (s := s.setNotices _) hs)

theorem nackBody_resumed (hs : Crowded s) (p : List Byte) :
    AnswerResumed r (nackBody p s) (nackBody p (s.stalledOn r)) := by
  rcases p with _ | ⟨a, _ | ⟨b, _ | _⟩⟩
  case cons.cons.nil =>
    simp only [nackBody, framed_notices]
    cases s.notices.entries with
    | nil => exact Crowded.answers hs
    | cons n rest => exact ite_rel Iff.rfl (Crowded.marks (s := s.setNotices _) hs) (Crowded.answers hs)
  all_goals exact Crowded.answers hs

/-! ### Decisions -/

/-- The slot and use checks are those of the OPEN link. -/
theorem withCurrent_resumed (hs : Crowded s) (slot use : Byte) (d : Bool) {f f' : Fin 16 → Hold → Answer}
    (hf : ∀ k h, AnswerResumed r (f k h) (f' k h)) :
    AnswerResumed r (s.withCurrent slot use d f) ((s.stalledOn r).withCurrent slot use d f') := by
  simp only [State.withCurrent, framed_hold]
  cases indexOf 16 slot with
  | none => exact Crowded.answers hs
  | some k =>
    dsimp only
    cases s.hold.slots[k].hold with
    | none => exact Crowded.answers hs
    | some h => exact ite_rel Iff.rfl (hf k h) (Crowded.answers hs)

theorem withDefer_resumed (hs : Crowded s) (slot use : Byte) {f f' : Fin 16 → Hold → Answer}
    (hf : ∀ k h, AnswerResumed r (f k h) (f' k h)) :
    AnswerResumed r (s.withDefer slot use f) ((s.stalledOn r).withDefer slot use f') :=
  withCurrent_resumed hs slot use true fun k h => ite_rel Iff.rfl (hf k h) (Crowded.answers hs)

/-- A decision that a steady operation carries out. -/
theorem Steady.decided {f : State → State} (hf : Steady f) (hs : Crowded s) :
    AnswerResumed r (s.decided (f s)) ((s.stalledOn r).decided (f (s.stalledOn r))) :=
  ⟨rfl, rfl, hf.report hs r⟩

theorem endHold_steady (k : Fin 16) (h : Hold) (st : HostStatus) (d : List Byte) (o : LastOutcome) :
    Steady (·.endHold k h st d o) := fun s x p n => endHold_framed s x p n k h st d o

theorem hreadBody_resumed (hs : Crowded s) (p : List Byte) :
    AnswerResumed r (hreadBody p s) (hreadBody p (s.stalledOn r)) := by
  rcases p with _ | ⟨a, _ | ⟨u, _ | ⟨part, _ | _⟩⟩⟩
  case cons.cons.cons.nil =>
    refine withCurrent_resumed hs a u false fun k h => ite_rel Iff.rfl ?_
      (ite_rel Iff.rfl (Crowded.answers hs) (Crowded.answers hs))
    cases h.req.op <;> exact Crowded.answers hs
  all_goals exact Crowded.answers hs

theorem hdataBody_resumed (hs : Crowded s) (p : List Byte) :
    AnswerResumed r (hdataBody p s) (hdataBody p (s.stalledOn r)) := by
  rcases p with _ | ⟨a, _ | ⟨u, data⟩⟩
  case cons.cons =>
    refine ite_rel Iff.rfl (Crowded.answers hs) (withDefer_resumed hs a u fun k h => ?_)
    exact ite_rel Iff.rfl (Crowded.answers hs) (ite_rel Iff.rfl (Crowded.answers hs)
      ((endHold_steady k h .ok data .answered).decided hs))
  all_goals exact Crowded.answers hs

theorem hdoneBody_resumed (hs : Crowded s) (p : List Byte) :
    AnswerResumed r (hdoneBody p s) (hdoneBody p (s.stalledOn r)) := by
  rcases p with _ | ⟨a, _ | ⟨u, data⟩⟩
  case cons.cons =>
    refine ite_rel Iff.rfl (Crowded.answers hs) (withDefer_resumed hs a u fun k h => ?_)
    exact ite_rel Iff.rfl (Crowded.answers hs) (ite_rel Iff.rfl (Crowded.answers hs)
      ((endHold_steady k h .ok [] .answered).decided hs))
  all_goals exact Crowded.answers hs

theorem hfwdBody_resumed (hs : Crowded s) (p : List Byte) :
    AnswerResumed r (hfwdBody p s) (hfwdBody p (s.stalledOn r)) := by
  rcases p with _ | ⟨a, _ | ⟨u, _ | ⟨sel, rest⟩⟩⟩
  case cons.cons.cons =>
    simp only [hfwdBody]
    cases if Config.maxPayload < (a :: u :: sel :: rest).length then none else fwdParts sel rest with
    | none => exact Crowded.answers hs
    | some parts =>
      refine withDefer_resumed hs a u fun k h => ?_
      have hf : Steady (·.forwardSlot k h (parts.entry h) .forwarded) :=
        fun s x p n => forwardSlot_framed s x p n k h (parts.entry h) .forwarded
      exact ite_rel Iff.rfl (Crowded.answers hs) (ite_rel Iff.rfl (Crowded.answers hs)
        (ite_rel Iff.rfl (Crowded.answers hs) (hf.decided hs)))
  all_goals exact Crowded.answers hs

theorem hrefuseBody_resumed (hs : Crowded s) (p : List Byte) :
    AnswerResumed r (hrefuseBody p s) (hrefuseBody p (s.stalledOn r)) := by
  rcases p with _ | ⟨a, _ | ⟨u, _ | ⟨st, _ | _⟩⟩⟩
  case cons.cons.cons.nil =>
    refine withDefer_resumed hs a u fun k h => ?_
    exact ite_rel Iff.rfl ((endHold_steady k h .refused [] .refused).decided hs)
      (ite_rel Iff.rfl ((endHold_steady k h .fault [] .refused).decided hs) (Crowded.answers hs))
  all_goals exact Crowded.answers hs

theorem hrenewBody_resumed (hs : Crowded s) (p : List Byte) :
    AnswerResumed r (hrenewBody p s) (hrenewBody p (s.stalledOn r)) := by
  rcases p with _ | ⟨a, _ | ⟨u, _ | _⟩⟩
  case cons.cons.nil =>
    exact withDefer_resumed hs a u fun k h =>
      ite_rel Iff.rfl (Crowded.answers hs) (Crowded.answers (hs.putHold k _))
  all_goals exact Crowded.answers hs

/-! ### Wait lists worked through -/

theorem workThrough_steady (g : Fin 16) {f : State → State} (hf : Steady f) : Steady fun t => (f t).workThrough g := by
  intro t x p n
  dsimp only
  rw [hf, workThrough_framed]

theorem sabortBody_resumed (hs : Crowded s) (p : List Byte) :
    AnswerResumed r (sabortBody p s) (sabortBody p (s.stalledOn r)) := by
  rcases p with _ | ⟨a, _ | _⟩
  case cons.nil =>
    simp only [sabortBody, framed_image]
    cases indexOf 16 a with
    | none => exact Crowded.answers hs
    | some g =>
      dsimp only
      cases s.image.segments[g].live with
      | none => exact Crowded.answers hs
      | some l =>
        have hf : Steady fun t =>
            ((t.setImage (s.image.setLive g (some { l with state := .failed }))).post (.imageFault g .aborted)).workThrough g :=
          workThrough_steady g fun _ _ _ _ => rfl
        exact ite_rel Iff.rfl (Crowded.answers hs) ⟨rfl, rfl, hf.report hs r⟩
  all_goals exact Crowded.answers hs

theorem sfreeBody_resumed (hs : Crowded s) (p : List Byte) :
    AnswerResumed r (sfreeBody p s) (sfreeBody p (s.stalledOn r)) := by
  rcases p with _ | ⟨a, _ | _⟩
  case cons.nil =>
    simp only [sfreeBody, framed_image, framed_windows]
    cases indexOf 16 a with
    | none => exact Crowded.answers hs
    | some g =>
      dsimp only
      cases s.windows.firstReferring g with
      | some x => exact Crowded.answers hs
      | none =>
        dsimp only
        cases s.image.segments[g].live with
        | none => exact Crowded.answers hs
        | some l =>
          have hf : Steady fun t =>
              if s.image.segments[g].waiting = [] then t.setImage (s.image.setLive g none)
              else (t.setImage (s.image.setLive g none)).post (.imageFault g .freed) :=
            fun t x p n => ite_rel (R := fun a b : State => a = b.framed x p n) Iff.rfl rfl rfl
          exact ⟨rfl, rfl, (workThrough_steady g hf).report hs r⟩
  all_goals exact Crowded.answers hs

end bodies

end Sys2Proof.Machine
end

section
/-! The events of a STALLED part (R148): each does what it does with the link OPEN, and the withheld request is offered to the OPEN link
where a slot is FREE after it. -/

namespace Sys2Proof.Machine

open Claims

set_option Elab.async false

section events

variable {s : State} {r : HostRequest}

/-! ### Frames -/

theorem takeCommit_resumed (hs : Crowded s) (q : Byte) (p : List Byte) :
    Resumed r (takeCommit q p s) (takeCommit q p (s.stalledOn r)) :=
  ite_rel Iff.rfl (Crowded.resumed hs) (Crowded.resumed hs)

theorem takeClearall_resumed (hs : Crowded s) (q : Byte) (p : List Byte) :
    Resumed r (takeClearall q p s) (takeClearall q p (s.stalledOn r)) :=
  ite_rel Iff.rfl (Crowded.resumed hs) (Crowded.resumed hs)

theorem takeScheck_resumed (hs : Crowded s) (q : Byte) (p : List Byte) :
    Resumed r (takeScheck q p s) (takeScheck q p (s.stalledOn r)) := by
  rcases p with _ | ⟨a, _ | ⟨b, _ | ⟨c, _ | ⟨d, _ | ⟨e, _ | _⟩⟩⟩⟩⟩
  case cons.cons.cons.cons.cons.nil =>
    simp only [takeScheck, framed_image]
    cases indexOf 16 a with
    | none => exact Crowded.resumed hs
    | some g =>
      dsimp only
      cases s.image.segments[g].live with
      | none => exact Crowded.resumed hs
      | some l =>
        exact ite_rel Iff.rfl (Crowded.resumed hs) (ite_rel Iff.rfl (Crowded.resumed hs) (Crowded.resumed hs))
  all_goals exact Crowded.resumed hs

/-- Every command but status, which shows the stall (R182), resumes the withheld request where it frees a slot. -/
theorem takeCommand_resumed (hs : Crowded s) {c : Command} (hc : c ≠ .status) (q : Byte) (p : List Byte) :
    Resumed r (takeCommand c q p s) (takeCommand c q p (s.stalledOn r)) := by
  cases c with
  | wset => exact (wsetBody_resumed hs p).immediately _ q
  | wclear => exact (wclearBody_resumed hs p).immediately _ q
  | wdefault => exact (wdefaultBody_resumed hs p).immediately _ q
  | wread => exact (wreadBody_resumed hs p).immediately _ q
  | commit => exact takeCommit_resumed hs q p
  | wstats => exact (wstatsBody_resumed hs p).immediately _ q
  | wzero => exact (wzeroBody_resumed hs p).immediately _ q
  | tset => exact (tsetBody_resumed hs p).immediately _ q
  | hread => exact (hreadBody_resumed hs p).immediately _ q
  | hdata => exact (hdataBody_resumed hs p).immediately _ q
  | hdone => exact (hdoneBody_resumed hs p).immediately _ q
  | hfwd => exact (hfwdBody_resumed hs p).immediately _ q
  | hrefuse => exact (hrefuseBody_resumed hs p).immediately _ q
  | hrenew => exact (hrenewBody_resumed hs p).immediately _ q
  | nfetch => exact (nfetchBody_resumed hs p).immediately _ q
  | nack => exact (nackBody_resumed hs p).immediately _ q
  | sload => exact (sloadBody_resumed hs p).immediately _ q
  | sdata => exact (sdataBody_resumed hs p).immediately _ q
  | scheck => exact takeScheck_resumed hs q p
  | sabort => exact (sabortBody_resumed hs p).immediately _ q
  | sfree => exact (sfreeBody_resumed hs p).immediately _ q
  | sread => exact (sreadBody_resumed hs p).immediately _ q
  | sinfo => exact (sinfoBody_resumed hs p).immediately _ q
  | status => exact absurd rfl hc
  | clearall => exact takeClearall_resumed hs q p

theorem takePoll_resumed (hs : Crowded s) (rest : List Byte) : Resumed r (takePoll rest s) (takePoll rest (s.stalledOn r)) := by
  simp only [takePoll, framed_port]
  cases s.port.phase <;> exact Crowded.resumed hs

/-- A frame that executes nothing is a command frame that is answered FRAME_ERROR or UNKNOWN, or dropped (R173, R174). -/
theorem takeRaw_resumed (hs : Crowded s) {b : List Byte} {cut : Bool} (hb : executesNothing b cut = true) :
    Resumed r (takeRaw b cut s) (takeRaw b cut (s.stalledOn r)) := by
  cases b with
  | nil => simp [executesNothing] at hb
  | cons code rest =>
    simp only [executesNothing, Bool.and_eq_true, Bool.or_eq_true, decide_eq_true_eq] at hb
    obtain ⟨hcode, hnothing⟩ := hb
    simp only [takeRaw, if_neg hcode]
    refine takeFrame_resumed hs _ fun p => ?_
    simp only [handleRaw]
    cases hfault : frameFault (code :: rest) cut with
    | some c => exact Crowded.resumed hs
    | none =>
      have hunknown : commandOfCode code = none := by simpa [hfault] using hnothing
      simp only [List.getD_cons_zero, hunknown]
      exact Crowded.resumed hs

/-! ### The two links and the deadlines -/

theorem grantOffer_resumed (hs : Crowded s) : Resumed r (grantOffer s) (grantOffer (s.stalledOn r)) := by
  simp only [grantOffer, framed_issue]
  cases s.issue.offer with
  | none => exact hs.resumed
  | some x => exact Crowded.resumed hs

theorem returnResponse_resumed (hs : Crowded s) (m : Fin 16) (t : Fin 32) (a : Addr) (out : Option (List Byte)) :
    Resumed r (s.returnResponse m t a out) ((s.stalledOn r).returnResponse m t a out) := by
  have hadvance : ∀ f : State → State, Steady f →
      Steady fun z => (((f z).freeMemTag m).setTag t none).advance t s.host.tags[t] := by
    intro f hf z x p n
    dsimp only
    rw [hf, freeMemTag_framed, setTag_framed, advance_framed]
  cases out with
  | none => exact (hadvance (fun z => (z.post (.memoryFault m (.hostTag t a))).respond t .fault []) fun _ _ _ _ => rfl).report hs r
  | some data => exact (hadvance (·.respond t .ok data) fun _ _ _ _ => rfl).report hs r

theorem memoryAnswer_resumed (hs : Crowded s) (m : MemResponse) :
    Resumed r (memoryAnswer m s) (memoryAnswer m (s.stalledOn r)) := by
  simp only [memoryAnswer, framed_issue]
  cases s.issue.forward[m.tag] with
  | free => exact Crowded.resumed hs
  | busy t o n a => exact returnResponse_resumed hs m.tag t a _
  | orphan o n a =>
    dsimp only
    cases okData m o n with
    | none => exact Crowded.resumed hs
    | some data => exact Crowded.resumed hs

/-- Time that passes frees no slot. -/
theorem Crowded.elapse (hs : Crowded s) (d : Nat) : Crowded (s.setHold (s.hold.elapse d)) := by
  obtain ⟨hr, ho, hheld⟩ := hs
  refine ⟨hr, ho, fun k => ?_⟩
  have hk : (s.setHold (s.hold.elapse d)).hold.slots[k] = s.hold.slots[k].elapse d := tableMap_get _ _ k
  rw [hk, Slot.elapse, ne_eq, Option.map_eq_none_iff]
  exact hheld k

theorem runOut_resumed (hs : Crowded s) (k : Fin 16) : Resumed r (runOut k s) (runOut k (s.stalledOn r)) := by
  simp only [runOut, framed_hold]
  cases s.hold.slots[k].hold with
  | none => exact hs.resumed
  | some h =>
    dsimp only
    cases h.deadline with
    | none => exact hs.resumed
    | some d =>
      have hf : Steady (·.expire k h) := fun z x p n => expire_framed z x p n k h
      exact hf.report (hs.elapse d) r

/-! ### Completions -/

theorem completeCommit_resumed (hs : Crowded s) : Resumed r (completeCommit s) (completeCommit (s.stalledOn r)) := by
  have hlow : (s.stalledOn r).lowestFailing = s.lowestFailing := rfl
  simp only [completeCommit, framed_port, hlow]
  rcases s.port.phase with _ | ⟨q | _ | _⟩ | _
  case busy.commit =>
    dsimp only
    cases s.lowestFailing <;> exact Crowded.resumed hs
  all_goals exact hs.resumed

theorem completeScheck_resumed (hs : Crowded s) : Resumed r (completeScheck s) (completeScheck (s.stalledOn r)) := by
  simp only [completeScheck, framed_port, framed_image]
  rcases s.port.phase with _ | ⟨_ | ⟨q, g, crc⟩ | _⟩ | _
  case busy.scheck =>
    dsimp only
    cases s.image.segments[g].live with
    | none => exact hs.resumed
    | some l =>
      have hf : Steady (·.judge g l crc) := fun z x p n => judge_framed z x p n g l crc
      exact ((workThrough_steady g hf).report hs r).makeReady _ _ _ _
  all_goals exact hs.resumed

theorem completeClearall_resumed (hs : Crowded s) : Resumed r (completeClearall s) (completeClearall (s.stalledOn r)) := by
  simp only [completeClearall, framed_port]
  rcases s.port.phase with _ | ⟨_ | _ | q⟩ | _
  case busy.clearall =>
    have hf : Steady State.clearBlocks := clearBlocks_framed
    exact (hf.report hs r).makeReady _ _ _ _
  all_goals exact hs.resumed

end events

end Sys2Proof.Machine
end

section
/-! A STALLED part takes up its withheld request in the event that frees a slot (R148, R149). -/

namespace Sys2Proof.Machine

open Claims

set_option Elab.async false

/-- Every event but status and the host's own: with the link STALLED it does what it does with the link OPEN, and then offers the
withheld request where a slot is FREE (R148). -/
theorem exec_resumed {i : Instr} {r : HostRequest} {s : State} (hw : i.wellFormed = true) (hoffer : ∀ q, i ≠ .hostOffer q)
    (hreset : i ≠ .hostLinkReset) (hpin : ∀ l, i ≠ .resetn l) (hstatus : ∀ q p, i ≠ .status q p) (hs : Crowded s) :
    ∃ t t', exec i s = .next t ∧ exec i (s.stalledOn r) = .next t' ∧ Resumed r t t' := by
  have hrun : ∀ f : State → State, exec i = (running · f) → Resumed r (f s) (f (s.stalledOn r)) →
      ∃ t t', exec i s = .next t ∧ exec i (s.stalledOn r) = .next t' ∧ Resumed r t t' := by
    intro f hf hres
    refine ⟨f s, f (s.stalledOn r), ?_, ?_, hres⟩
    · rw [hf]
      exact running_high hs.1 f
    · rw [hf]
      exact running_high (s := s.stalledOn r) hs.1 f
  cases hc : i.asCommand with
  | some x =>
    obtain ⟨c, q, p⟩ := x
    have hi := asCommand_eq hc
    refine hrun _ (by rw [hi]; exact funext fun z => exec_instrOf z q p c) ?_
    refine takeFrame_resumed hs _ fun port => takeCommand_resumed (s := s.setPort port) hs ?_ q p
    rintro rfl
    exact hstatus q p hi
  | none =>
    cases i with
    | hostOffer q => exact absurd rfl (hoffer q)
    | hostLinkReset => exact absurd rfl hreset
    | resetn l => exact absurd rfl (hpin l)
    | grant => exact hrun _ rfl (grantOffer_resumed hs)
    | memoryResponse m => exact hrun _ rfl (memoryAnswer_resumed hs m)
    | expiry k => exact hrun _ rfl (runOut_resumed hs k)
    | commitCompletion => exact hrun _ rfl (completeCommit_resumed hs)
    | scheckCompletion => exact hrun _ rfl (completeScheck_resumed hs)
    | clearallCompletion => exact hrun _ rfl (completeClearall_resumed hs)
    | poll rest => exact hrun _ rfl (takePoll_resumed hs rest)
    | unexecutedFrame b cut => exact hrun _ rfl (takeRaw_resumed hs hw)
    | shortFrame w => exact ⟨s, s.stalledOn r, rfl, rfl, hs.resumed⟩
    | _ => simp [Instr.asCommand] at hc

/-- A part STALLED on a request with every slot HELD is the same part with the link OPEN, then STALLED on it. -/
theorem crowded_open {r : HostRequest} {s : State} (hr : s.resetn = .high) (hst : s.host.stalled = some r)
    (hheld : ∀ j : Fin 16, s.hold.slots[j].hold ≠ none) :
    Crowded s.openLink ∧ s.openLink.stalledOn r = s := by
  refine ⟨⟨hr, rfl, hheld⟩, ?_⟩
  conv_rhs => rw [← framed_self (s := s), hst]
  rfl

/-- An event of a STALLED part is followed by the withheld request's offer where it leaves a slot FREE, and else leaves the request
withheld (R148, R149). -/
theorem exec_stalled {i : Instr} {r : HostRequest} {s t0 : State} (hw : i.wellFormed = true) (hoffer : ∀ q, i ≠ .hostOffer q)
    (hreset : i ≠ .hostLinkReset) (hpin : ∀ l, i ≠ .resetn l) (hstatus : ∀ q p, i ≠ .status q p) (hr : s.resetn = .high)
    (hst : s.host.stalled = some r) (hheld : ∀ j : Fin 16, s.hold.slots[j].hold ≠ none)
    (h0 : exec i s.openLink = .next t0) :
    ((∃ j : Fin 16, t0.hold.slots[j].hold = none) → exec i s = exec (.hostOffer r) t0) ∧
    ((∀ j : Fin 16, t0.hold.slots[j].hold ≠ none) → exec i s = .next (t0.stalledOn r)) := by
  obtain ⟨hcrowd, heq⟩ := crowded_open hr hst hheld
  obtain ⟨t, t', ht, ht', hhigh, hopen, rfl⟩ := exec_resumed (r := r) hw hoffer hreset hpin hstatus hcrowd
  rw [heq] at ht'
  obtain rfl : t0 = t := Host.Outcome.next.inj (h0.symm.trans ht)
  constructor
  · rintro ⟨j, hj⟩
    rw [ht', resumed_of_free fun h => lowestFree_eq_none.mp h j hj, exec_hostOffer, running_high hhigh, offer_open hopen]
  · intro hall
    rw [ht', resumed_of_held (lowestFree_eq_none.mpr hall)]

/-! ### A refusal on a STALLED link -/

/-- An hrefuse with status REFUSED of a request in no chain, with the link OPEN (R72, R78). -/
theorem exec_hrefuse_open {seq u : Byte} {k : Fin 16} {h : Hold} {s : State} (ha : Accepts s) (hd : Decides s k u h)
    (hopen : s.host.stalled = none) (htag : ∀ e ∈ s.host.tags[h.req.tag], e.member = false) :
    exec (.hrefuse seq [indexByte k, u, 0x01]) s =
      .next (ended s k h .refused [] .refused (replied s.port 7 0x34 seq .done [])) := by
  obtain ⟨hk, rfl, hreason⟩ := hd
  rw [exec_hrefuse]
  refine immediate_next (t := ended s k h .refused [] .refused s.port) ha 7 .hrefuse seq _ ?_
  let z := s.setPort (handling s.port 7)
  have hend : z.endHold k h .refused [] .refused = z.answerSlot k h .refused [] .refused := advance_plain _ htag
  have hz : (z.answerSlot k h .refused [] .refused).host.stalled = none := by
    rw [answerSlot_held (s := z) hk]
    exact hopen
  calc hrefuseBody [indexByte k, s.hold.slots[k].use, 0x01] z
    _ = z.decided (z.endHold k h .refused [] .refused) :=
        withDefer_current (s := z) _ (indexOf_indexByte (by decide) k) hk hreason
    _ = _ := by
      rw [State.decided, hend, reportFreeing_open _ hz, answerSlot_held (s := z) hk]
      rfl

/-- The same hrefuse on a link STALLED on a request frees the slot, and is followed by that request's offer (R148). -/
theorem exec_hrefuse_stalled {seq u : Byte} {k : Fin 16} {h : Hold} {r : HostRequest} {s : State} (ha : Accepts s)
    (hd : Decides s k u h) (hst : s.host.stalled = some r) (htag : ∀ e ∈ s.host.tags[h.req.tag], e.member = false)
    (hheld : ∀ j : Fin 16, s.hold.slots[j].hold ≠ none) :
    exec (.hrefuse seq [indexByte k, u, 0x01]) s =
      exec (.hostOffer r) (ended s.openLink k h .refused [] .refused (replied s.port 7 0x34 seq .done [])) := by
  have h0 := exec_hrefuse_open (s := s.openLink) (seq := seq) ha hd rfl htag
  obtain ⟨hfree, -⟩ := exec_stalled rfl (by simp) (by simp) (by simp) (by simp) ha.1 hst hheld h0
  exact hfree ⟨k, congrArg Slot.hold (table_set_get_self s.hold.slots k _)⟩

/-- Where every other slot is HELD, the slot of a hold just ended is the lowest FREE one (R31). -/
theorem ended_lowestFree {s : State} (hheld : ∀ j : Fin 16, s.hold.slots[j].hold ≠ none) (k : Fin 16) (h : Hold) (st : HostStatus)
    (d : List Byte) (o : LastOutcome) (p : ServicePort) : LowestFree (ended s k h st d o p) k := by
  refine ⟨congrArg Slot.hold (table_set_get_self s.hold.slots k _), fun j hj => ?_⟩
  have hother : (ended s k h st d o p).hold.slots[j] = s.hold.slots[j] := table_set_get_ne _ _ (Fin.ne_of_gt hj)
  rw [hother]
  exact hheld j

/-- A request to a window whose trip is not armed counts a match, and nothing else (R13, R16). -/
theorem countAccepted_untripped {s : State} {w : Fin 24} (o : Op) (h : s.windows.tripRemaining[w] = 0) :
    s.countAccepted w o = s.setWindows (s.windows.countMatch w o) := by
  rw [countAccepted_eq, WindowTable.countTrip]
  simp only [h, if_true, Nat.zero_ne_one, if_false]
  rfl

/-- The decision record for a DEFER window, field by field (R9, R10). -/
theorem decide_deferred {t : WindowTable} {w : Fin 24} {r : HostRequest} (hp : t.active[w].policyFor r.op = .defer) :
    t.decide w r =
      { window := w
        ruling := .defer
        downstream := BitVec.ofNat 40 (t.active[w].downstream r.addr)
        timeoutClass := t.active[w].timeoutClass
        expiryAction := t.active[w].expiryAction } := by
  rw [← decide_defer hp]
  rfl

/-- An unordered DEFER window whose trip is not armed takes an offer into the lowest FREE slot (R9, R10, R38, R47). -/
theorem offered_deferred {s : State} {r : HostRequest} {w : Fin 24} {k : Fin 16} (h : Offered s r (some w)) (hk : LowestFree s k)
    (hp : s.windows.active[w].policyFor r.op = .defer) (ho : s.windows.active[w].ordered = false)
    (ht : s.windows.tripRemaining[w] = 0) :
    exec (.hostOffer r) s = .next
      { s with
        windows := s.windows.countMatch w r.op
        host := busyTag s.host r.tag (.held k) (some w) false
        hold := heldSlot s.hold k
          { reason := .defer
            req := r
            decision :=
              { window := w
                ruling := .defer
                downstream := BitVec.ofNat 40 (s.windows.active[w].downstream r.addr)
                timeoutClass := s.windows.active[w].timeoutClass
                expiryAction := s.windows.active[w].expiryAction }
            deadline := some s.hold.timeouts[s.windows.active[w].timeoutClass]
            renewals := 0
            notice := .queued }
        notices := s.notices.append (.hold k s.hold.slots[k].use r.op w r.addr r.len) } := by
  have hunordered : ¬ s.windows.active[w].ordered = true := Bool.eq_false_iff.mp ho
  obtain ⟨-, hslot⟩ := requestsTakeTheLowestFreeSlot.1 r w k s h hk
  obtain ⟨hdefer, -⟩ := hslot fun hordered => absurd hordered hunordered
  rw [hdefer hp, countAccepted_untripped r.op ht, joined, if_neg hunordered, ho, decide_deferred hp]
  rfl

/-- Settles O29: the events by their effect on a STALLED part, the refusal by its effect on an OPEN link and the offer that follows. -/
theorem freeingASlotEndsTheStall : Obligations.FreeingASlotEndsTheStall := by
  refine ⟨fun i r s t0 hw hoffer hreset hpin hstatus hr hst hheld h0 => ?_, ?_⟩
  · obtain ⟨hfree, hall⟩ := exec_stalled hw hoffer hreset hpin hstatus hr hst hheld h0
    exact ⟨hfree, hall⟩
  · intro seq u k h r s ha hd hst hplain hheld htag hrtag hmal b after
    have hresume : after = exec (.hostOffer r) _ := exec_hrefuse_stalled ha hd hst hplain hheld
    have hoffered : ∀ m, s.windows.matched r.addr = m → s.windows.straddles m r.addr r.len.toNat = false →
        Offered (ended s.openLink k h .refused [] .refused (replied s.port 7 0x34 seq .done [])) r m :=
      fun m hm hstr => ⟨ha.1, rfl, (table_set_get_ne _ _ htag.symm).trans hrtag, hmal, hm, hstr⟩
    rw [hresume]
    refine ⟨fun hm hstr hp => ?_, fun w hm hstr hp ho ht => ?_⟩
    · obtain ⟨-, hdefault, -⟩ := requestsWithoutASlotAreDispatched r _
      obtain ⟨-, -, hpass⟩ := hdefault (hoffered none hm hstr)
      exact hpass hp
    · have hoff := hoffered (some w) hm hstr
      have huse : (freed s.hold k .refused).slots[k].use = s.hold.slots[k].use + 1 :=
        congrArg Slot.use (table_set_get_self s.hold.slots k _)
      rw [offered_deferred hoff (ended_lowestFree (s := s.openLink) hheld k h _ _ _ _) hp ho ht, downstream_eq (offered_base hoff),
        ← huse]
      rfl

end Sys2Proof.Machine
end

section
/-! The law of the holds and of the timeout table is kept by every move, and so by every step (R29, R37, R38, R42). -/

namespace Sys2Proof.Machine

variable {s : State}

/-- A hold table given other slots is lawful where each of their holds is. -/
theorem HoldTable.lawful_slots {h : HoldTable} {v : Vector Slot 16} (hl : h.Lawful)
    (hv : ∀ k : Fin 16, ∀ x ∈ v[k].hold, x.Lawful) : ({ h with slots := v } : HoldTable).Lawful :=
  ⟨hv, hl.2⟩

/-- A slot replaced keeps the law where the hold in it is lawful. -/
theorem HoldTable.lawful_set {h : HoldTable} {k : Fin 16} {x : Slot} (hl : h.Lawful) (hx : ∀ y ∈ x.hold, y.Lawful) :
    ({ h with slots := h.slots.set k x } : HoldTable).Lawful := by
  refine lawful_slots hl fun j => ?_
  rw [table_set_get]
  split
  · exact hx
  · exact hl.1 j

theorem holdLawful_putHold {k : Fin 16} {h : Hold} (hs : s.hold.Lawful) (hh : h.Lawful) : (s.putHold k h).hold.Lawful :=
  HoldTable.lawful_set hs fun _ hy => Option.mem_some.mp hy ▸ hh

theorem holdLawful_free {k : Fin 16} {o : LastOutcome} (hs : s.hold.Lawful) :
    ({ s.hold with slots := s.hold.slots.set k (s.hold.slots[k].free o) } : HoldTable).Lawful :=
  HoldTable.lawful_set hs fun _ hy => by cases hy

theorem holdLawful_freeSlot {k : Fin 16} {o : LastOutcome} (hs : s.hold.Lawful) : (s.freeSlot k o).hold.Lawful := by
  unfold State.freeSlot
  split
  · exact hs
  · exact holdLawful_free hs

/-- The request of a hold that starts or changes its reason is well-formed. -/
theorem Source.wellFormed {k : Fin 16} {h : Hold} (hh : Source s k h) (hs : s.hold.Lawful) : malformed h.req = false := by
  rcases hh with hk | ⟨r, d, hr, rfl⟩
  · obtain ⟨-, -, -, -, hm⟩ := hs.1 k h hk
    exact hm
  · exact hr

/-- The length that a deadline starts with fits the timeout table's range (R37, R38). -/
theorem HoldTable.lengthOf_le {h : HoldTable} (hl : h.Lawful) (d : Decision) : h.lengthOf d ≤ 65535 := (hl.2 _).2

/-- A hold that gets a deadline of its class, and a reason that has one (R38). -/
theorem Hold.lawful_deadline {h : Hold} {n : Nat} (ho : h.reason ≠ .order) (hd : h.deadline = some n) (hn : n ≤ 65535)
    (hr : h.renewals ≤ 3) (hdefer : h.reason = .defer → h.decision.ruling = .defer) (hm : malformed h.req = false) :
    h.Lawful := by
  refine ⟨by simp [hd, ho], fun d hd' => ?_, hr, hdefer, hm⟩
  rw [hd, Option.mem_some] at hd'
  exact hd' ▸ hn

/-- A hold is as lawful after time has passed (R39). -/
theorem Hold.lawful_elapse {h : Hold} (r : Nat) (hh : h.Lawful) :
    Hold.Lawful { h with deadline := h.deadline.map fun d => d - r } := by
  obtain ⟨hd, hle, hrest⟩ := hh
  refine ⟨by rw [Option.isSome_map]; exact hd, fun d hd' => ?_, hrest⟩
  obtain ⟨x, hx, rfl⟩ := Option.map_eq_some_iff.mp hd'
  exact (Nat.sub_le x r).trans (hle x hx)

theorem holdLawful_elapse {h : HoldTable} (r : Nat) (hl : h.Lawful) : (h.elapse r).Lawful := by
  refine HoldTable.lawful_slots hl fun k x hx => ?_
  rw [tableMap_get] at hx
  obtain ⟨y, hy, rfl⟩ := Option.map_eq_some_iff.mp hx
  exact Hold.lawful_elapse r (hl.1 k y hy)

/-- A timeout table given another table of lawful entries. -/
theorem HoldTable.lawful_timeouts {h : HoldTable} {v : Vector Nat 4} (hl : h.Lawful)
    (hv : ∀ c : Fin 4, 1 ≤ v[c] ∧ v[c] ≤ 65535) : ({ h with timeouts := v } : HoldTable).Lawful :=
  ⟨hl.1, hv⟩

/-- Every move keeps the holds and the timeout table lawful. -/
theorem move_keeps_holdLawful {s t : State} (hm : Move s t) (h : s.hold.Lawful) : t.hold.Lawful := by
  cases hm with
  | host | issue | chains | port | pending | post | present | remove | clear | bytes | waits | load | data | judge | drop
  | stage | unstage | stageDefault | statistics | count | commit | clearWindows | clearImage => exact h
  | free k o => exact holdLawful_freeSlot h
  | freeQuiet k o => exact holdLawful_free h
  | order k r d hr => exact holdLawful_putHold h ⟨by simp [Hold.start], by simp [Hold.start], by simp [Hold.start], nofun, hr⟩
  | defer k x hx hr =>
    exact holdLawful_putHold h
      (Hold.lawful_deadline (by simp) rfl (HoldTable.lengthOf_le h _) (by simp) (fun _ => hr) (hx.wellFormed h))
  | wait k x g hx =>
    exact holdLawful_putHold h
      (Hold.lawful_deadline (by simp) rfl (HoldTable.lengthOf_le h _) (by simp) nofun (hx.wellFormed h))
  | renew k x hk hr hn =>
    obtain ⟨-, -, -, hdefer, hm⟩ := h.1 k x hk
    exact holdLawful_putHold h (Hold.lawful_deadline (by simp [hr]) rfl (HoldTable.lengthOf_le h _) hn hdefer hm)
  | mark k x n hk => exact holdLawful_putHold h (h.1 k x hk)
  | elapse r => exact holdLawful_elapse r h
  | timeout c v hv =>
    refine HoldTable.lawful_timeouts h fun i => ?_
    rw [table_set_get]
    split
    · exact hv
    · exact h.2 i
  | timeouts => exact HoldTable.lawful_timeouts h (by decide)
  | power l => exact traffic_lawful_reset.2.2.2

/-- Settles O57: a step is a sequence of moves, and each keeps the law. -/
theorem holdsStayLawful : Obligations.HoldsStayLawful := by
  intro s t hs hstep
  exact Moves.keeps (P := fun s => s.hold.Lawful) (fun _ _ hm h => move_keeps_holdLawful hm h) (step_moves hstep) hs

end Sys2Proof.Machine
end

section
/-! The law of the notice queue is kept by every move, and so by every step (R86, R88 to R94, R97, R101); and how many entries it allows
(R49, R100). -/

namespace Sys2Proof.Machine

/-! ### Consecutive numbers (R88, R89) -/

/-- The entries' numbers count up from a. -/
def Consecutive : Word16 → List Notice → Prop
  | _, [] => True
  | a, n :: rest => n.seq = a ∧ Consecutive (a + 1) rest

/-- A number's distance from the end of a list shrinks by one with its head. -/
theorem sub_length_add_one (c : Word16) (n : Nat) : c - BitVec.ofNat 16 (n + 1) + 1 = c - BitVec.ofNat 16 n := by
  bv_omega

theorem consecutive_iff {c : Word16} {l : List Notice} :
    Consecutive (c - BitVec.ofNat 16 l.length) l ↔
      ∀ i : Fin l.length, l[i].seq = c - BitVec.ofNat 16 (l.length - i) := by
  induction l with
  | nil => exact ⟨fun _ i => i.elim0, fun _ => trivial⟩
  | cons n rest ih =>
    have hlen : (n :: rest).length = rest.length + 1 := rfl
    have hstart : Consecutive (c - BitVec.ofNat 16 (n :: rest).length) (n :: rest) ↔
        n.seq = c - BitVec.ofNat 16 (rest.length + 1) ∧ Consecutive (c - BitVec.ofNat 16 rest.length) rest := by
      rw [Consecutive, hlen, sub_length_add_one]
    rw [hstart, ih]
    constructor
    · rintro ⟨hn, hrest⟩ ⟨i, hi⟩
      cases i with
      | zero => exact hn
      | succ i =>
        have := hrest ⟨i, by simpa using hi⟩
        simpa using this
    · intro h
      refine ⟨h ⟨0, by simp⟩, fun i => ?_⟩
      have := h ⟨i.val + 1, by simp⟩
      simpa using this

/-- The queue is numbered exactly where its entries count up to the counter (R89). -/
theorem NoticeQueue.numbered_iff {q : NoticeQueue} :
    q.Numbered ↔ Consecutive (q.counter - BitVec.ofNat 16 q.entries.length) q.entries :=
  consecutive_iff.symm

theorem consecutive_append {a : Word16} {l m : List Notice} :
    Consecutive a (l ++ m) ↔ Consecutive a l ∧ Consecutive (a + BitVec.ofNat 16 l.length) m := by
  induction l generalizing a with
  | nil => simp [Consecutive]
  | cons n rest ih =>
    have hlen : a + 1 + BitVec.ofNat 16 rest.length = a + BitVec.ofNat 16 (rest.length + 1) := by
      bv_omega
    rw [List.cons_append, Consecutive, Consecutive, ih, List.length_cons, hlen, and_assoc]

/-- Entries renumbered by one less (R93). -/
theorem consecutive_renumbered {a : Word16} {l : List Notice} (h : Consecutive (a + 1) l) :
    Consecutive a (l.map fun m => { m with seq := m.seq - 1 }) := by
  induction l generalizing a with
  | nil => trivial
  | cons n rest ih =>
    obtain ⟨hn, hrest⟩ := h
    refine ⟨?_, ih hrest⟩
    simp [hn]

/-! ### What merging and withdrawing do to a list of entries (R91, R93) -/

/-- The law of one entry's count (R86). -/
abbrev Notice.Counted (n : Notice) : Prop := 1 ≤ n.count ∧ n.count ≤ 255 ∧ (n.detail.kind = .hold → n.count = 1)

/-- The event kinds of a list of entries, in order. -/
abbrev eventKinds (l : List Notice) : List Kind := (l.map fun n => n.detail.kind).filter fun k => k ≠ .hold

theorem Notice.bump_counted {n : Notice} (h : n.Counted) (hk : n.detail.kind ≠ .hold) : n.bump.Counted := by
  obtain ⟨h1, h2, -⟩ := h
  unfold bump Config.maxCount
  refine ⟨?_, ?_, fun hh => absurd hh hk⟩ <;> dsimp only <;> split <;> omega

/-- A merge changes the count of one entry of the kind, and nothing else (R91). -/
theorem mergeKind_spec {k : Kind} {l es : List Notice} (hk : k ≠ .hold) (h : mergeKind k l = some es) :
    es.length = l.length ∧ eventKinds es = eventKinds l ∧ (∀ a, Consecutive a l → Consecutive a es) ∧
    ((∀ n ∈ l, n.Counted) → ∀ n ∈ es, n.Counted) := by
  induction l generalizing es with
  | nil => cases h
  | cons n rest ih =>
    simp only [mergeKind] at h
    split at h
    · rename_i hn
      cases h
      refine ⟨rfl, rfl, fun a ha => ha, fun hc => ?_⟩
      rw [List.forall_mem_cons] at hc ⊢
      exact ⟨Notice.bump_counted hc.1 (hn ▸ hk), hc.2⟩
    · obtain ⟨x, hx, rfl⟩ := Option.map_eq_some_iff.mp h
      obtain ⟨hlen, hkinds, hcons, hcount⟩ := ih hx
      refine ⟨congrArg (· + 1) hlen, ?_, fun a ha => ⟨ha.1, hcons _ ha.2⟩, fun hc => ?_⟩
      · simp only [eventKinds, List.map_cons, List.filter_cons] at hkinds ⊢
        rw [hkinds]
      · rw [List.forall_mem_cons] at hc ⊢
        exact ⟨hc.1, hcount hc.2⟩

/-- Without an entry to merge into there is none of the kind (R91). -/
theorem mergeKind_none {k : Kind} {l : List Notice} (h : mergeKind k l = none) : k ∉ l.map fun n => n.detail.kind := by
  induction l with
  | nil => simp
  | cons n rest ih =>
    simp only [mergeKind] at h
    split at h
    · cases h
    · rename_i hn
      rw [List.map_cons, List.mem_cons, not_or]
      exact ⟨Ne.symm hn, ih (Option.map_eq_none_iff.mp h)⟩

theorem Notice.kind_of_isHoldOf {n : Notice} {k : Fin 16} (h : n.isHoldOf k = true) : n.detail.kind = .hold := by
  unfold isHoldOf at h
  split at h
  · rename_i hd
    rw [hd]
    rfl
  · cases h

/-- A withdrawal takes one HOLD entry away and renumbers those behind it (R93). -/
theorem dropHold_spec {k : Fin 16} {l es : List Notice} (h : dropHold k l = some es) :
    l.length = es.length + 1 ∧ eventKinds es = eventKinds l ∧ (∀ a, Consecutive a l → Consecutive a es) ∧
    ((∀ n ∈ l, n.Counted) → ∀ n ∈ es, n.Counted) := by
  induction l generalizing es with
  | nil => cases h
  | cons n rest ih =>
    simp only [dropHold] at h
    split at h
    · rename_i hn
      cases h
      refine ⟨by simp, ?_, fun a ha => consecutive_renumbered ha.2, fun hc => ?_⟩
      · simp [eventKinds, Notice.kind_of_isHoldOf hn, Function.comp_def]
      · rw [List.forall_mem_cons] at hc
        simpa using hc.2
    · obtain ⟨x, hx, rfl⟩ := Option.map_eq_some_iff.mp h
      obtain ⟨hlen, hkinds, hcons, hcount⟩ := ih hx
      refine ⟨congrArg (· + 1) hlen, ?_, fun a ha => ⟨ha.1, hcons _ ha.2⟩, fun hc => ?_⟩
      · simp only [eventKinds, List.map_cons, List.filter_cons] at hkinds ⊢
        rw [hkinds]
      · rw [List.forall_mem_cons] at hc ⊢
        exact ⟨hc.1, hcount hc.2⟩

/-! ### The queue's operations -/

variable {q : NoticeQueue}

/-- The queue is its presented head and the unpresented entries (R94). -/
theorem NoticeQueue.fixed_append_unpresented (q : NoticeQueue) : q.fixed ++ q.unpresented = q.entries := by
  unfold fixed unpresented
  split
  · exact List.take_append_drop 1 q.entries
  · rfl

/-- The unpresented entries replaced: lawful where the new ones count on from the head to the new counter, each by its own law, no two of one
event kind. -/
theorem NoticeQueue.lawful_replaced (h : q.Lawful) {es : List Notice} {c : Word16} {b : Bool}
    (hnum : Consecutive (c - BitVec.ofNat 16 (q.fixed ++ es).length) (q.fixed ++ es))
    (hcount : (∀ n ∈ q.unpresented, n.Counted) → ∀ n ∈ es, n.Counted) (hkinds : (eventKinds es).Nodup)
    (hattn : b = !(q.fixed ++ es).isEmpty) :
    ({ q with entries := q.fixed ++ es, counter := c, attn := b } : NoticeQueue).Lawful := by
  obtain ⟨-, hcounted, -, -, hhead⟩ := h
  rw [Counted, ← q.fixed_append_unpresented, List.forall_mem_append] at hcounted
  refine ⟨numbered_iff.mpr hnum, List.forall_mem_append.mpr ⟨hcounted.1, hcount hcounted.2⟩, ?_, hattn, fun hp => ?_⟩
  · rw [Merged, q.unpresented_replaced es c b hhead]
    exact hkinds
  · have hfixed : q.fixed ≠ [] := by
      simpa only [fixed, show q.presented = true from hp, if_true, ne_eq, List.take_eq_nil_iff, one_ne_zero, false_or] using hhead hp
    simp [hfixed]

/-- The numbers of the head and of the unpresented entries. -/
theorem NoticeQueue.consecutive_of_lawful (h : q.Lawful) :
    Consecutive (q.counter - BitVec.ofNat 16 (q.fixed ++ q.unpresented).length) (q.fixed ++ q.unpresented) := by
  rw [fixed_append_unpresented]
  exact numbered_iff.mp h.1

/-- An entry appended: lawful where its kind is none of the unpresented events' (R90). -/
theorem NoticeQueue.append_lawful (h : q.Lawful) {d : Detail}
    (hd : d.kind ≠ .hold → d.kind ∉ q.unpresented.map fun n => n.detail.kind) : (q.append d).Lawful := by
  have hnum := consecutive_of_lawful h
  have he : q.append d =
      { q with
        entries := q.fixed ++ (q.unpresented ++ [{ seq := q.counter, count := 1, detail := d }])
        counter := q.counter + 1
        attn := !(q.fixed ++ (q.unpresented ++ ([{ seq := q.counter, count := 1, detail := d }] : List Notice))).isEmpty } := by
    rw [← List.append_assoc, fixed_append_unpresented]
    rfl
  rw [he]
  refine lawful_replaced h ?_ (fun hc => ?_) ?_ rfl
  · have hstart : ∀ n : Nat, q.counter + 1 - BitVec.ofNat 16 (n + 1) = q.counter - BitVec.ofNat 16 n := fun n => by
      bv_omega
    rw [← List.append_assoc, List.length_append, List.length_singleton, hstart, consecutive_append]
    refine ⟨hnum, ?_, trivial⟩
    exact (sub_add_cancel q.counter _).symm
  · rw [List.forall_mem_append, List.forall_mem_singleton]
    exact ⟨hc, Nat.le_refl 1, Nat.le_of_ble_eq_true rfl, fun _ => rfl⟩
  · obtain ⟨-, -, hmerged, -⟩ := h
    rw [eventKinds, List.map_append, List.filter_append, List.nodup_append]
    refine ⟨hmerged, (List.nodup_singleton _).filter _, fun a ha b hb => ?_⟩
    rw [List.mem_filter] at ha hb
    rintro rfl
    obtain rfl : a = d.kind := by simpa using hb.1
    exact hd (by simpa using hb.2) ha.1

theorem NoticeQueue.append_hold_lawful (h : q.Lawful) {d : Detail} (hd : d.kind = .hold) : (q.append d).Lawful :=
  append_lawful h fun hne => absurd hd hne

theorem NoticeQueue.post_lawful (h : q.Lawful) {d : Detail} (hd : d.kind ≠ .hold) : (q.post d).Lawful := by
  unfold post
  split
  · rename_i es he
    obtain ⟨hlen, hkinds, hcons, hcount⟩ := mergeKind_spec hd he
    have hnum := consecutive_of_lawful h
    have hlen' : (q.fixed ++ es).length = (q.fixed ++ q.unpresented).length := by simp [hlen]
    refine lawful_replaced h ?_ hcount (by rw [hkinds]; exact h.2.2.1) ?_
    · rw [hlen']
      rw [consecutive_append] at hnum ⊢
      exact ⟨hnum.1, hcons _ hnum.2⟩
    · obtain ⟨-, -, -, hattn, -⟩ := h
      have hempty : (q.fixed ++ es).isEmpty = q.entries.isEmpty := by
        rw [← q.fixed_append_unpresented, Bool.eq_iff_iff, List.isEmpty_iff_length_eq_zero, List.isEmpty_iff_length_eq_zero, hlen']
      rw [hattn, hempty]
  · exact append_lawful h fun _ => mergeKind_none (by assumption)

theorem NoticeQueue.withdraw_lawful (h : q.Lawful) (k : Fin 16) : (q.withdraw k).Lawful := by
  unfold withdraw
  split
  · rename_i es he
    obtain ⟨hlen, hkinds, hcons, hcount⟩ := dropHold_spec he
    have hnum := consecutive_of_lawful h
    have hstart : q.counter - 1 - BitVec.ofNat 16 (q.fixed ++ es).length =
        q.counter - BitVec.ofNat 16 (q.fixed ++ q.unpresented).length := by
      rw [List.length_append, List.length_append, hlen]
      bv_omega
    refine lawful_replaced h ?_ hcount (by rw [hkinds]; exact h.2.2.1) rfl
    rw [hstart]
    rw [consecutive_append] at hnum ⊢
    exact ⟨hnum.1, hcons _ hnum.2⟩
  · exact h

/-- The entries behind the head are as lawful as they were, all unpresented or all but the first (R94, R97). -/
theorem NoticeQueue.unpresented_tail_sublist (q : NoticeQueue) : (q.entries.drop 1).Sublist q.unpresented := by
  unfold unpresented
  split
  · exact .refl _
  · exact List.drop_sublist 1 _

theorem eventKinds_sublist {l m : List Notice} (h : l.Sublist m) : (eventKinds l).Sublist (eventKinds m) :=
  (h.map _).filter _

theorem NoticeQueue.present_lawful (h : q.Lawful) (he : q.entries ≠ []) : ({ q with presented := true } : NoticeQueue).Lawful := by
  obtain ⟨hnum, hcount, hmerged, hattn, -⟩ := h
  exact ⟨hnum, hcount, hmerged.sublist (eventKinds_sublist q.unpresented_tail_sublist), hattn, fun _ => he⟩

theorem NoticeQueue.removeHead_lawful (h : q.Lawful) : q.removeHead.Lawful := by
  obtain ⟨hnum, hcount, hmerged, -, -⟩ := h
  refine ⟨?_, fun n hn => hcount n (List.mem_of_mem_drop hn),
    hmerged.sublist (eventKinds_sublist q.unpresented_tail_sublist), rfl, fun hp => by cases hp⟩
  rw [numbered_iff] at hnum ⊢
  simp only [removeHead, withEntries]
  cases he : q.entries with
  | nil => trivial
  | cons n rest =>
    rw [he, List.length_cons, Consecutive, sub_length_add_one] at hnum
    exact hnum.2

theorem NoticeQueue.clear_lawful (q : NoticeQueue) : q.clear.Lawful :=
  ⟨fun i => i.elim0, fun _ hn => absurd hn List.not_mem_nil, List.nodup_nil, rfl, nofun⟩

/-- Every move keeps the law of the notice queue. -/
theorem move_keeps_noticesLawful {s t : State} (hm : Move s t) (h : s.notices.Lawful) : t.notices.Lawful := by
  cases hm with
  | host | issue | chains | port | pending | freeQuiet | order | wait | renew | mark | elapse | timeout | timeouts | bytes | waits
  | load | data | judge | drop | stage | unstage | stageDefault | statistics | count | commit | clearWindows | clearImage => exact h
  | post d hd => exact NoticeQueue.post_lawful h hd
  | present he => exact NoticeQueue.present_lawful h he
  | remove => exact NoticeQueue.removeHead_lawful h
  | clear => exact NoticeQueue.clear_lawful _
  | free k o =>
    unfold State.freeSlot
    split
    · exact h
    · exact NoticeQueue.withdraw_lawful h k
  | defer k x => exact NoticeQueue.append_hold_lawful h rfl
  | power l => exact resetIsLawful.1

/-- A step keeps the law of the notice queue. -/
theorem step_keeps_noticesLawful {s t : State} (h : s.notices.Lawful) (hstep : step s = .next t) : t.notices.Lawful :=
  Moves.keeps (P := fun s => s.notices.Lawful) (fun _ _ hm h => move_keeps_noticesLawful hm h) (step_moves hstep) h

/-! ### How long the queue gets (R49, R100) -/

/-- An entry is of an event kind, or names a slot. -/
theorem Notice.named_isSome_iff (n : Notice) : n.named.isSome = true ↔ n.detail.kind = .hold := by
  unfold named
  cases n.detail <;> simp [Detail.kind]

/-- The unpresented entries are the HOLD notices and the events. -/
theorem length_names_add_events (l : List Notice) :
    l.length = (l.filterMap Notice.named).length + (eventKinds l).length := by
  rw [List.length_filterMap_eq_countP, eventKinds, List.filter_map, List.length_map, ← List.countP_eq_length_filter,
    List.length_eq_countP_add_countP (fun n => n.named.isSome)]
  congr 1
  refine List.countP_congr fun n _ => ?_
  simp [← Notice.named_isSome_iff]

/-- The event kinds are eight, HOLD left out (R86). -/
theorem eventKinds_length_le {l : List Notice} (h : (eventKinds l).Nodup) : (eventKinds l).length ≤ 8 := by
  have hsub : eventKinds l ⊆ [.expiry, .reqError, .tagClash, .linkReset, .trip, .imageFault, .memoryFault, .holdFull] := by
    intro k hk
    have hne : k ≠ .hold := by simpa using (List.mem_filter.mp hk).2
    cases k with
    | hold => exact absurd rfl hne
    | _ => simp
  exact (h.subperm hsub).length_le

/-- At most one unpresented HOLD notice for each slot (R49). -/
theorem names_length_le {s : State} (h : s.HoldNoticesLawful) : s.notices.names.length ≤ 16 := by
  have := h.1.length_le_card
  simpa using this

/-- A queue that keeps both laws has a presented head, a HOLD notice for each slot and an event of each kind at most (R100). -/
theorem entries_length_le {s : State} (hq : s.notices.Lawful) (hn : s.HoldNoticesLawful) : s.notices.entries.length ≤ 25 := by
  have hfixed : s.notices.fixed.length ≤ 1 := by
    unfold NoticeQueue.fixed
    split <;> simp
  have hnames := names_length_le hn
  have hevents := eventKinds_length_le hq.2.2.1
  have hun := length_names_add_events s.notices.unpresented
  have hall := congrArg List.length s.notices.fixed_append_unpresented
  rw [List.length_append] at hall
  simp only [NoticeQueue.names] at hnames
  omega

end Sys2Proof.Machine
end

section
/-! The timeout table and the deadlines that run from it: tset, hrenew, and the running out of a deadline (R39 to R46, R79). -/

namespace Sys2Proof.Machine

open Claims

/-! ### tset (R40) -/

section tset

variable {p : List Byte} {s : State}

/-- A class and a value in range set the class's entry. -/
theorem tsetBody_sets (s : State) (c : Fin 4) {v : Nat} (h1 : 1 ≤ v) (h2 : v ≤ 65535) :
    tsetBody (indexByte c :: le 2 v) s =
      ⟨.done, [], s.setHold { s.hold with timeouts := s.hold.timeouts.set c v }⟩ := by
  have hback : fromLE (le 2 v) = v := fromLE_le 2 v (by omega)
  have hv : fromLE [BitVec.ofNat 8 v, BitVec.ofNat 8 (v / 256)] = v := hback
  simp only [tsetBody, le, indexOf_indexByte (by decide) c, hv, if_neg (show v ≠ 0 by omega)]

/-- Any other payload is INVALID. -/
theorem tsetBody_invalid (s : State) (hp : ∀ (c : Fin 4) (v : Nat), 1 ≤ v → v ≤ 65535 → p ≠ indexByte c :: le 2 v) :
    tsetBody p s = s.answers .invalid [] := by
  unfold tsetBody
  split
  · rename_i c v0 v1
    split
    · rename_i i hi
      split
      · rfl
      · rename_i hv
        have hlt : fromLE [v0, v1] < 256 ^ 2 := fromLE_lt [v0, v1]
        refine absurd ?_ (hp i (fromLE [v0, v1]) (by omega) (by omega))
        rw [eq_indexByte hi, show le 2 (fromLE [v0, v1]) = [v0, v1] from le_fromLE [v0, v1]]
    · rfl
  · rfl

/-- Settles O22: the payload either names a class and a value in range, or is refused. -/
theorem tsetSetsTheTimeoutEntry : Obligations.TsetSetsTheTimeoutEntry := by
  intro q p s ha
  rw [exec_tset]
  refine ⟨fun c v h1 h2 hp => ?_, fun hp => ?_⟩
  · subst hp
    exact immediate_next (t := s.setHold { s.hold with timeouts := s.hold.timeouts.set c v }) ha _ .tset q _ (tsetBody_sets _ c h1 h2)
  · exact immediate_answers ha _ .tset q (tsetBody_invalid _ hp)

end tset

/-! ### hrenew (R42, R79) -/

section hrenew

variable {s : State} {k : Fin 16} {h : Hold}

theorem hrenewBody_renews (hk : s.hold.slots[k].hold = some h) (hr : h.reason = .defer) (hn : h.renewals < 3) :
    hrenewBody [indexByte k, s.hold.slots[k].use] s =
      ⟨.done, le 2 (s.hold.lengthOf h.decision) ++ [BitVec.ofNat 8 (h.renewals + 1)],
        s.putHold k { h with deadline := some (s.hold.lengthOf h.decision), renewals := h.renewals + 1 }⟩ := by
  simp only [hrenewBody]
  rw [withDefer_current _ (indexOf_indexByte (by decide) k) hk hr, if_neg (show ¬ Config.maxRenewals ≤ h.renewals from Nat.not_le.mpr hn)]

theorem hrenewBody_limit (hk : s.hold.slots[k].hold = some h) (hr : h.reason = .defer) (hn : 3 ≤ h.renewals) :
    hrenewBody [indexByte k, s.hold.slots[k].use] s =
      s.answers .limit (le 2 (h.deadline.getD 0) ++ [BitVec.ofNat 8 h.renewals]) := by
  simp only [hrenewBody]
  rw [withDefer_current _ (indexOf_indexByte (by decide) k) hk hr, if_pos (show Config.maxRenewals ≤ h.renewals from hn)]

/-- Settles O27: a current hold for DEFER reaches the renewal count's check. -/
theorem hrenewRestartsTheDeadline : Obligations.HrenewRestartsTheDeadline := by
  rintro q u k h s ha ⟨hk, rfl, hr⟩
  rw [exec_hrenew]
  refine ⟨fun hn => ?_, fun hn => ?_⟩
  · exact immediate_next
      (t := s.putHold k { h with deadline := some (s.hold.lengthOf h.decision), renewals := h.renewals + 1 }) ha 6 .hrenew q _
      (hrenewBody_renews (s := s.setPort _) hk hr hn)
  · exact immediate_answers ha 6 .hrenew q (hrenewBody_limit (s := s.setPort _) hk hr hn)

end hrenew

/-! ### Expiry (R43 to R46) -/

section expiry

variable {s : State} {k : Fin 16} {h : Hold} {d : Nat}

/-- The deadline of a held slot runs out: the others have counted down, and the hold expires. -/
theorem runOut_deadline (hk : s.hold.slots[k].hold = some h) (hd : h.deadline = some d) :
    runOut k s = ((s.setHold (s.hold.elapse d)).expire k h).reportFreeing (s.setHold (s.hold.elapse d)) := by
  simp only [runOut, hk, hd]

/-- A slot with no running deadline has no expiry (log 4). -/
theorem runOut_none (hk : ∀ h, s.hold.slots[k].hold = some h → h.deadline = none) : runOut k s = s := by
  unfold runOut
  split
  · rfl
  · rename_i h hh
    rw [hk h hh]

theorem elapse_slot (t : HoldTable) (d : Nat) (k : Fin 16) : (t.elapse d).slots[k] = t.slots[k].elapse d := tableMap_get _ _ k

/-- A HELD slot is HELD for the same request after time has passed. -/
theorem elapse_held (hk : s.hold.slots[k].hold = some h) (d : Nat) :
    (s.hold.elapse d).slots[k].hold = some { h with deadline := h.deadline.map fun x => x - d } := by
  rw [elapse_slot, Slot.elapse, hk]
  rfl

/-- The EXPIRY notice of a slot's hold (R92). -/
def State.expiryNotice (s : State) (k : Fin 16) (h : Hold) : Detail :=
  .expiry k s.hold.slots[k].use h.decision.window h.req.addr h.decision.expiryAction

theorem expire_of_expire (s : State) (k : Fin 16) (ha : h.decision.expiryAction = .expire) :
    s.expire k h = (((s.setImage (s.image.leaveLists k)).answerSlot k h .expired [] .expired).post (s.expiryNotice k h)).advance h.req.tag
      s.host.tags[h.req.tag] := by
  simp only [State.expire, State.expiryNotice, ha]
  rfl

theorem expire_of_forward (s : State) (k : Fin 16) (ha : h.decision.expiryAction = .forward) :
    s.expire k h = ((s.setImage (s.image.leaveLists k)).forwardSlot k h (issueEntry h.req h.decision.downstream) .expired).post
      (s.expiryNotice k h) := by
  simp only [State.expire, State.expiryNotice, ha]

/-- A hold that expires under EXPIRE, its request in no chain (R44). -/
theorem expire_answers (hk : s.hold.slots[k].hold = some h) (ha : h.decision.expiryAction = .expire)
    (hm : ∀ e ∈ s.host.tags[h.req.tag], e.member = false) :
    s.expire k h =
      { s with
        hold := freed s.hold k .expired
        image := s.image.leaveLists k
        notices := (s.notices.withdraw k).post (.expiry k s.hold.slots[k].use h.decision.window h.req.addr .expire)
        host := responded s.host h.req.tag .expired [] } := by
  rw [expire_of_expire s k ha, advance_plain _ hm, answerSlot_held (s := s.setImage (s.image.leaveLists k)) hk, State.expiryNotice, ha]
  rfl

/-- A hold that expires under FORWARD (R45). -/
theorem expire_forwards (hk : s.hold.slots[k].hold = some h) (ha : h.decision.expiryAction = .forward) :
    s.expire k h =
      { s with
        hold := freed s.hold k .expired
        image := s.image.leaveLists k
        notices := (s.notices.withdraw k).post (.expiry k s.hold.slots[k].use h.decision.window h.req.addr .forward)
        issue := { s.issue with queue := s.issue.queue ++ [issueEntry h.req h.decision.downstream] }
        host :=
          { s.host with
            tags := s.host.tags.set h.req.tag (s.host.tags[h.req.tag].map fun e => { e with place := .queued }) } } := by
  rw [expire_of_forward s k ha, forwardSlot_held (s := s.setImage (s.image.leaveLists k)) hk, State.expiryNotice, ha]
  rfl

/-- Settles O30: the time that has passed leaves the slot HELD for its request, which then ends as its expiry action says. -/
theorem expiryEndsTheHold : Obligations.ExpiryEndsTheHold := by
  intro k s hr
  rw [exec_expiry, running_high hr]
  refine ⟨fun h d hk hd hs => ?_, fun hnone => by rw [runOut_none hnone]⟩
  have hheld : (s.setHold (s.hold.elapse d)).hold.slots[k].hold = _ := elapse_held hk d
  have huse : (s.setHold (s.hold.elapse d)).hold.slots[k].use = s.hold.slots[k].use := by
    rw [State.setHold_hold, elapse_slot]
    rfl
  rw [runOut_deadline hk hd]
  refine ⟨fun ha hm => ?_, fun ha => ?_⟩
  · have hends := expire_answers hheld ha hm
    rw [huse] at hends
    exact congrArg _ ((reportFreeing_open _ ((congrArg (fun t : State => t.host.stalled) hends).trans hs)).trans hends)
  · have hends := expire_forwards hheld ha
    rw [huse] at hends
    exact congrArg _ ((reportFreeing_open _ ((congrArg (fun t : State => t.host.stalled) hends).trans hs)).trans hends)

end expiry

end Sys2Proof.Machine
end

section
/-! The host link reset: what freeing every slot leaves, and the state after it (R51, R66, R104, R131, R150, R151, R167). -/

namespace Sys2Proof.Machine

/-- A slot's record after a freeing that reaches every HELD slot. -/
def Slot.freedBy (x : Slot) (o : LastOutcome) : Slot := if x.hold = none then x else x.free o

theorem Slot.freedBy_hold (x : Slot) (o : LastOutcome) : (x.freedBy o).hold = none := by
  unfold Slot.freedBy
  split
  · assumption
  · rfl

/-- The withdrawals of a freeing in list order: one for each HELD slot (R104). -/
def HoldTable.withdrawals (h : HoldTable) (l : List (Fin 16)) (q : NoticeQueue) : NoticeQueue :=
  l.foldl (fun q k => match h.slots[k].hold with | none => q | some _ => q.withdraw k) q

variable {s : State} {k j : Fin 16} {o : LastOutcome}

theorem freeSlot_slots (s : State) (k j : Fin 16) (o : LastOutcome) :
    (s.freeSlot k o).hold.slots[j] = if k = j then s.hold.slots[j].freedBy o else s.hold.slots[j] := by
  cases hk : s.hold.slots[k].hold with
  | none =>
    rw [freeSlot_free hk]
    split
    · rename_i hj
      subst hj
      rw [Slot.freedBy, if_pos hk]
    · rfl
  | some h =>
    rw [freeSlot_held hk]
    refine (table_set_get _ _ _ _).trans ?_
    split
    · rename_i hj
      subst hj
      rw [Slot.freedBy, if_neg (by rw [hk]; simp)]
    · rfl

/-- A freeing changes slots and notices only. -/
theorem freeSlot_frame (s : State) (k : Fin 16) (o : LastOutcome) :
    s.freeSlot k o =
      { s with
        hold := { s.hold with slots := (s.freeSlot k o).hold.slots }
        notices := s.hold.withdrawals [k] s.notices } := by
  cases hk : s.hold.slots[k].hold with
  | none =>
    rw [freeSlot_free hk]
    simp only [HoldTable.withdrawals, List.foldl_cons, List.foldl_nil, hk]
  | some h =>
    rw [freeSlot_held hk]
    simp only [HoldTable.withdrawals, List.foldl_cons, List.foldl_nil, hk]
    rfl

/-- The withdrawals depend on the listed slots only. -/
theorem HoldTable.withdrawals_congr {h g : HoldTable} {l : List (Fin 16)} (hl : ∀ k ∈ l, h.slots[k] = g.slots[k]) (q : NoticeQueue) :
    h.withdrawals l q = g.withdrawals l q := by
  unfold HoldTable.withdrawals
  refine List.foldl_ext _ _ q fun a k hk => ?_
  rw [hl k hk]

theorem HoldTable.withdrawals_cons (h : HoldTable) (k : Fin 16) (l : List (Fin 16)) (q : NoticeQueue) :
    h.withdrawals (k :: l) q = h.withdrawals l (h.withdrawals [k] q) := rfl

/-- Slots freed one by one, each once: the listed slots freed, and their notices withdrawn in list order. -/
theorem freeSlots_eq (o : LastOutcome) (l : List (Fin 16)) : ∀ s : State, l.Nodup →
    (∀ j : Fin 16, (l.foldl (fun s k => s.freeSlot k o) s).hold.slots[j] =
      if j ∈ l then s.hold.slots[j].freedBy o else s.hold.slots[j]) ∧
    l.foldl (fun s k => s.freeSlot k o) s =
      { s with
        hold := { s.hold with slots := (l.foldl (fun s k => s.freeSlot k o) s).hold.slots }
        notices := s.hold.withdrawals l s.notices } := by
  induction l with
  | nil => exact fun s _ => ⟨fun j => rfl, rfl⟩
  | cons k rest ih =>
    intro s hnodup
    obtain ⟨hk, hrest⟩ := List.nodup_cons.mp hnodup
    obtain ⟨hslots, hframe⟩ := ih (s.freeSlot k o) hrest
    have hkeep : ∀ j ∈ rest, (s.freeSlot k o).hold.slots[j] = s.hold.slots[j] := by
      intro j hj
      rw [freeSlot_slots, if_neg]
      rintro rfl
      exact hk hj
    rw [List.foldl_cons]
    refine ⟨fun j => ?_, hframe.trans ?_⟩
    · rw [hslots, freeSlot_slots]
      by_cases hj : k = j
      · subst hj
        rw [if_neg hk, if_pos rfl, if_pos List.mem_cons_self]
      · simp only [List.mem_cons, if_neg hj, Ne.symm hj, false_or]
    · rw [HoldTable.withdrawals_cons, HoldTable.withdrawals_congr hkeep, freeSlot_frame s k o]

/-- Every HELD slot freed, and the notices of their holds withdrawn in slot order (R51, R104). -/
theorem freeAll_eq (s : State) (o : LastOutcome) :
    (∀ j : Fin 16, (s.freeAll o).hold.slots[j] = s.hold.slots[j].freedBy o) ∧
    s.freeAll o =
      { s with
        hold := { s.hold with slots := (s.freeAll o).hold.slots }
        notices := s.hold.withdrawals (List.finRange 16) s.notices } := by
  obtain ⟨hslots, hframe⟩ := freeSlots_eq o (List.finRange 16) s (List.nodup_finRange 16)
  rw [State.freeAll]
  exact ⟨fun j => (hslots j).trans (if_pos (List.mem_finRange j)), hframe⟩

/-- The state after a host link reset, block by block. -/
theorem resetLink_eq (s : State) :
    resetLink s =
      { s with
        hold := { s.hold with slots := (s.freeAll .reset).hold.slots }
        host := { s.host with tags := Vector.replicate 32 none, stalled := none }
        chains := Vector.replicate 24 []
        image := { s.image with segments := tableMap (fun _ g => { g with waiting := [] }) s.image.segments }
        issue := { s.issue with queue := [], forward := tableMap (fun _ f => f.orphaned) s.issue.forward }
        notices := (s.hold.withdrawals (List.finRange 16) s.notices).post
          (.linkReset s.hold.heldCount (countWhere Forward.isBusy s.issue.forward)) } := by
  obtain ⟨-, hframe⟩ := freeAll_eq s .reset
  unfold resetLink
  generalize (s.freeAll .reset).hold.slots = v at hframe ⊢
  rw [hframe]
  generalize s.hold.withdrawals (List.finRange 16) s.notices = q
  rfl

/-- Settles O51: every slot is freed in slot order, and the other blocks of traffic are emptied. -/
theorem hostLinkResetEndsAllTraffic : Obligations.HostLinkResetEndsAllTraffic := by
  intro s hr
  obtain ⟨hslots, -⟩ := freeAll_eq s .reset
  have hbusy : ∀ f : Forward, f.isBusy = match f with | .busy .. => true | _ => false := fun f => by cases f <;> rfl
  rw [exec_hostLinkReset, running_high hr, resetLink_eq]
  simp only [HoldTable.heldCount, countWhere_eq, hbusy]
  generalize (s.freeAll .reset).hold.slots = v at hslots ⊢
  refine ⟨_, rfl, hslots, rfl, rfl, rfl, rfl, fun g => tableMap_get _ _ g, rfl, rfl, fun m => ?_, rfl, rfl, rfl, rfl, rfl⟩
  refine (tableMap_get _ _ m).trans ?_
  cases s.issue.forward[m] <;> rfl

end Sys2Proof.Machine
end

section
/-! What each operation does to the laws of the notices together: the queue's own, and that each unpresented HOLD notice is on its slot's
current hold (R49, R93, R100). -/

namespace Sys2Proof.Machine

/-- The laws of the notices together: the queue's own, and that of the holds its HOLD notices name. -/
abbrev State.NoticesSound (s : State) : Prop := s.notices.Lawful ∧ s.HoldNoticesLawful

/-- A slot is HELD for DEFER under a use, as an unpresented HOLD notice that names them says (R49). -/
def State.defers (s : State) (x : Fin 16 × Byte) : Prop :=
  s.hold.slots[x.1].use = x.2 ∧ ∃ h ∈ s.hold.slots[x.1].hold, h.reason = .defer

variable {s t : State} {k : Fin 16}

theorem State.holdNoticesLawful_iff :
    s.HoldNoticesLawful ↔ (s.notices.names.map fun x => x.1).Nodup ∧ ∀ x ∈ s.notices.names, s.defers x := Iff.rfl

/-- With no name added, the laws stay where every slot that is still named is held as before. -/
theorem State.NoticesSound.of_sublist (hs : s.NoticesSound) (hq : t.notices.Lawful)
    (hsub : t.notices.names.Sublist s.notices.names) (hd : ∀ x ∈ t.notices.names, s.defers x → t.defers x) : t.NoticesSound := by
  obtain ⟨-, hnodup, hnamed⟩ := hs
  exact ⟨hq, hnodup.sublist (hsub.map _), fun x hx => hd x hx (hnamed x (hsub.subset hx))⟩

/-- An update of other blocks. -/
theorem State.NoticesSound.of_eq (hs : s.NoticesSound) (hn : t.notices = s.notices) (hh : t.hold.slots = s.hold.slots) :
    t.NoticesSound := by
  refine hs.of_sublist (hn ▸ hs.1) (hn ▸ List.Sublist.refl _) fun x _ hx => ?_
  rw [State.defers, hh]
  exact hx

theorem State.NoticesSound.post (hs : s.NoticesSound) {d : Detail} (hd : d.kind ≠ .hold) : (s.post d).NoticesSound := by
  have hnames : (s.post d).notices.names = s.notices.names := NoticeQueue.post_names _ hd hs.1.2.2.2.2
  exact hs.of_sublist (NoticeQueue.post_lawful hs.1 hd) (hnames ▸ List.Sublist.refl _) fun _ _ hx => hx

/-- The queue replaced by one that names no other slot. -/
theorem State.NoticesSound.setNotices (hs : s.NoticesSound) {q : NoticeQueue} (hq : q.Lawful)
    (hsub : q.names.Sublist s.notices.names) : (s.setNotices q).NoticesSound :=
  hs.of_sublist hq hsub fun _ _ hx => hx

/-- Every slot may lose its hold where the queue is emptied (R105). -/
theorem State.noticesSound_of_clear (hs : t.notices = s.notices.clear) : t.NoticesSound := by
  have hnames : t.notices.names = [] := by rw [hs]; rfl
  refine ⟨hs ▸ NoticeQueue.clear_lawful _, State.holdNoticesLawful_iff.mpr ⟨?_, fun x hx => ?_⟩⟩
  · rw [hnames]
    exact List.nodup_nil
  · rw [hnames] at hx
    cases hx

/-- Where no two names are of one slot, a slot's is gone once it is taken away. -/
theorem ne_of_mem_eraseP {l : List (Fin 16 × Byte)} (hl : (l.map fun x => x.1).Nodup) {x : Fin 16 × Byte}
    (hx : x ∈ l.eraseP fun y => y.1 = k) : x.1 ≠ k := by
  induction l with
  | nil => cases hx
  | cons y rest ih =>
    rw [List.map_cons, List.nodup_cons] at hl
    obtain ⟨hy, hrest⟩ := hl
    by_cases hk : y.1 = k
    · rw [List.eraseP_cons_of_pos (by simpa using hk)] at hx
      rintro rfl
      exact hy (hk ▸ List.mem_map_of_mem hx)
    · rw [List.eraseP_cons_of_neg (by simpa using hk), List.mem_cons] at hx
      rcases hx with rfl | hx
      · exact hk
      · exact ih hrest hx

/-- A freed slot withdraws its notice, and leaves the other slots (R34, R93). -/
theorem State.NoticesSound.freeSlot (hs : s.NoticesSound) (o : LastOutcome) : (s.freeSlot k o).NoticesSound := by
  cases hk : s.hold.slots[k].hold with
  | none => rwa [freeSlot_free hk]
  | some h =>
    have hnames : (s.freeSlot k o).notices.names = s.notices.names.eraseP fun x => x.1 = k := by
      rw [freeSlot_held hk]
      exact NoticeQueue.withdraw_names _ k hs.1.2.2.2.2
    refine hs.of_sublist ?_ (hnames ▸ List.eraseP_sublist) fun x hx hd => ?_
    · rw [freeSlot_held hk]
      exact NoticeQueue.withdraw_lawful hs.1 k
    · have hne : x.1 ≠ k := ne_of_mem_eraseP hs.2.1 (hnames ▸ hx)
      have hslot : (s.freeSlot k o).hold.slots[x.1] = s.hold.slots[x.1] := by
        rw [freeSlot_held hk]
        exact table_set_get_ne _ _ hne.symm
      rw [State.defers, hslot]
      exact hd

/-- A slot held, or held on, leaves the laws unless it was held for DEFER and is no more. -/
theorem State.NoticesSound.putHold (hs : s.NoticesSound) {h : Hold}
    (hk : ∀ x ∈ s.hold.slots[k].hold, x.reason = .defer → h.reason = .defer) : (s.putHold k h).NoticesSound := by
  refine hs.of_sublist hs.1 (List.Sublist.refl _) fun x _ hd => ?_
  have hslot : (s.putHold k h).hold.slots[x.1] = if k = x.1 then { s.hold.slots[k] with hold := some h } else s.hold.slots[x.1] :=
    table_set_get _ _ _ _
  rw [State.defers, hslot]
  split
  · rename_i hx
    subst hx
    obtain ⟨huse, y, hy, hr⟩ := hd
    exact ⟨huse, h, rfl, hk y hy hr⟩
  · exact hd

/-- A slot that was not held for DEFER is named by no unpresented notice, and so may have one (R47, R49). -/
theorem State.NoticesSound.holdDefer (hs : s.NoticesSound) {h : Hold}
    (hk : ∀ x ∈ s.hold.slots[k].hold, x.reason ≠ .defer) : (s.holdDefer k h).NoticesSound := by
  have hput := hs.putHold (k := k) (h := { h with reason := .defer, deadline := some (s.hold.lengthOf h.decision), renewals := 0, notice := .queued })
    fun x hx hr => absurd hr (hk x hx)
  have hnames : (s.holdDefer k h).notices.names = s.notices.names ++ [(k, s.hold.slots[k].use)] := by
    rw [NoticeQueue.names, State.holdDefer, State.setNotices_notices, NoticeQueue.unpresented_append _ _ hs.1.2.2.2.2,
      List.filterMap_append]
    rfl
  have hnew : (s.holdDefer k h).defers (k, s.hold.slots[k].use) := by
    have hslot : (s.holdDefer k h).hold.slots[k] = _ := table_set_get_self _ _ _
    dsimp only [State.defers]
    rw [hslot]
    exact ⟨rfl, _, rfl, rfl⟩
  obtain ⟨hlaw, hnodup, hnamed⟩ := id hs
  refine ⟨NoticeQueue.append_hold_lawful hlaw rfl, State.holdNoticesLawful_iff.mpr ⟨?_, fun x hx => ?_⟩⟩
  · rw [hnames, List.map_append, List.map_singleton, List.nodup_append]
    refine ⟨hnodup, List.nodup_singleton _, fun a ha b hb => ?_⟩
    rintro rfl
    obtain ⟨y, hy, hya⟩ := List.mem_map.mp ha
    obtain ⟨-, z, hz, hr⟩ := hnamed y hy
    have hyk : y.1 = k := hya.trans (by simpa using hb)
    exact hk z (hyk ▸ hz) hr
  · rw [hnames, List.mem_append, List.mem_singleton] at hx
    rcases hx with hx | rfl
    · exact hput.2.2 x hx
    · exact hnew

/-- Time that passes leaves every slot's use and reason (R39). -/
theorem State.NoticesSound.elapse (hs : s.NoticesSound) (r : Nat) : (s.setHold (s.hold.elapse r)).NoticesSound := by
  refine hs.of_sublist hs.1 (List.Sublist.refl _) fun x _ hd => ?_
  obtain ⟨huse, h, hh, hr⟩ := hd
  have hslot : (s.setHold (s.hold.elapse r)).hold.slots[x.1] = s.hold.slots[x.1].elapse r := tableMap_get _ _ _
  rw [State.defers, hslot]
  exact ⟨huse, { h with deadline := h.deadline.map fun d => d - r }, by rw [Slot.elapse, Option.mem_def.mp hh]; rfl, hr⟩

end Sys2Proof.Machine
end

section
/-! Where every request in flight is, between two updates of one event: the laws of traffic with what the event has yet to do left out of
them (R31, R36, R54, R55, R60, R109, R126, R137). -/

namespace Sys2Proof.Machine

/-! ### The laws of traffic, part by part -/

/-- The host tag that a BUSY memory tag's request is of (R159). -/
def Forward.busyTag : Forward → Option (Fin 32)
  | .busy u _ _ _ => some u
  | _ => none

/-- The segment that a decision serves from (R9, R11). -/
def Ruling.segment : Ruling → Option (Fin 16)
  | .serve g _ => some g
  | _ => none

/-- A place records a host tag (R136, R137, R159). -/
def State.recorded (s : State) (t : Fin 32) : TagPlace → Prop
  | .queued => ∃ e ∈ s.issue.queue, e.tag = t
  | .forwarded m => s.issue.forward[m].busyTag = some t
  | .held k => ∃ h ∈ s.hold.slots[k].hold, h.req.tag = t

/-- A host tag's request is held behind its chain's head (R55, R58). -/
def State.behind (s : State) (t : Fin 32) : Prop :=
  ∃ k : Fin 16, ∃ h ∈ s.hold.slots[k].hold, h.req.tag = t ∧ h.reason = .order

/-- A slot's request waits for a segment (R124). -/
def State.waitsFor (s : State) (k g : Fin 16) : Prop :=
  ∃ h ∈ s.hold.slots[k].hold, h.reason = .imageWait ∧ h.decision.ruling.segment = some g

/-- How far an event has come from one lawful state to the next. -/
structure Stage where
  /-- The chain whose head has been answered: every tag left in it is behind that head (R60). -/
  headless : Option (Fin 24)
  /-- The segment whose wait list is worked through, and what is left of that list (R126). -/
  working : Option (Fin 16 × List (Fin 16))
  /-- The slot that has left the wait lists, to be freed (R36). -/
  leaving : Option (Fin 16)
  /-- Whether the laws of the notices are asked for beside those of the traffic. -/
  notices : Prop

/-- A host tag is recorded in exactly the place its entry names (R137). -/
structure State.Placed (s : State) : Prop where
  queue : (s.issue.queue.map fun e => e.tag).Nodup
  place : ∀ (t : Fin 32) (p : TagPlace), (∃ x ∈ s.host.tags[t], x.place = p) ↔ s.recorded t p

/-- The chains hold the members once, in each all but the head are behind it, and every hold is of its tag's window (R54, R55). -/
structure State.Chained (o : Option (Fin 24)) (s : State) : Prop where
  nodup : ∀ w : Fin 24, s.chains[w].Nodup
  member : ∀ (w : Fin 24) (t : Fin 32), t ∈ s.chains[w] ↔ ∃ x ∈ s.host.tags[t], x.member = true ∧ x.window = some w
  behind : ∀ w : Fin 24, ∀ t ∈ s.chains[w], (s.behind t ↔ o = some w ∨ t ∈ s.chains[w].drop 1)
  hold : ∀ k : Fin 16, ∀ h ∈ s.hold.slots[k].hold, ∀ x ∈ s.host.tags[h.req.tag],
    x.window = some h.decision.window ∧ (h.reason = .order → x.member = true)

/-- The wait lists hold the slots that wait for their segments, but for the one that is leaving; a segment that has waiters is LOADING, unless it
is the one that is worked through (R36, R109, R126). -/
structure State.Listed (x : Option (Fin 16 × List (Fin 16))) (y : Option (Fin 16)) (s : State) : Prop where
  nodup : ∀ g : Fin 16, s.image.segments[g].waiting.Nodup
  waits : ∀ g k : Fin 16, k ∈ s.image.segments[g].waiting ↔ s.waitsFor k g ∧ y ≠ some k
  loading : ∀ g : Fin 16, s.image.segments[g].waiting ≠ [] → s.image.isLoading g = true ∨ ∃ l, x = some (g, l)
  worked : ∀ z ∈ x, s.image.isLoading z.1 = false ∧ s.image.segments[z.1].waiting = z.2

/-- The laws of traffic at a stage of an event, and those of the notices where they are asked for. -/
structure State.Flows (e : Stage) (s : State) : Prop where
  placed : s.Placed
  chained : s.Chained e.headless
  listed : s.Listed e.working e.leaving
  notices : e.notices → s.NoticesSound

/-- Nothing of the event is left to do. -/
abbrev Stage.settled (n : Prop) : Stage := { headless := none, working := none, leaving := none, notices := n }

section laws

variable {s : State}

theorem State.tagsLawful_iff : s.TagsLawful ↔ s.Placed := by
  have hforward : ∀ (t : Fin 32) (m : Fin 16),
      (match s.issue.forward[m] with | .busy u _ _ _ => u = t | _ => False) ↔ s.recorded t (.forwarded m) := by
    intro t m
    simp only [State.recorded]
    cases s.issue.forward[m] <;> simp [Forward.busyTag]
  constructor
  · rintro ⟨hq, hqueued, hfwd, hheld⟩
    refine ⟨hq, fun t p => ?_⟩
    cases p with
    | queued => exact (hqueued t).symm
    | forwarded m => exact (hfwd t m).trans (hforward t m)
    | held k => exact hheld t k
  · rintro ⟨hq, hplace⟩
    exact ⟨hq, fun t => (hplace t .queued).symm, fun t m => (hplace t (.forwarded m)).trans (hforward t m).symm,
      fun t k => hplace t (.held k)⟩

theorem State.waitListsLawful_iff : s.WaitListsLawful ↔ s.Listed none none := by
  have hwaits : ∀ k g : Fin 16,
      (∃ h ∈ s.hold.slots[k].hold, h.reason = .imageWait ∧ (match h.decision.ruling with | .serve j _ => j = g | _ => False)) ↔
        s.waitsFor k g := by
    intro k g
    refine exists_congr fun h => and_congr_right fun _ => and_congr_right fun _ => ?_
    cases h.decision.ruling <;> simp [Ruling.segment]
  constructor
  · rintro ⟨hn, hl, hw⟩
    exact ⟨hn, fun g k => ((hw g k).trans (hwaits k g)).trans (by simp), fun g hg => .inl (hl g hg), nofun⟩
  · rintro ⟨hn, hw, hl, -⟩
    exact ⟨hn, fun g hg => (hl g hg).resolve_right (by simp), fun g k => ((hw g k).trans (by simp)).trans (hwaits k g).symm⟩

/-- A tag is recorded in one place only. -/
theorem State.Placed.unique (hs : s.Placed) {t : Fin 32} {p q : TagPlace} (hp : s.recorded t p) (hq : s.recorded t q) : p = q := by
  obtain ⟨x, hx, rfl⟩ := (hs.place t p).mpr hp
  obtain ⟨y, hy, rfl⟩ := (hs.place t q).mpr hq
  rw [Option.mem_unique hx hy]

/-- A tag has an entry where it is recorded. -/
theorem State.Placed.entry (hs : s.Placed) {t : Fin 32} {p : TagPlace} (hp : s.recorded t p) :
    ∃ x, s.host.tags[t] = some x ∧ x.place = p := (hs.place t p).mpr hp

/-- A FREE tag is recorded nowhere. -/
theorem State.Placed.free (hs : s.Placed) {t : Fin 32} (ht : s.host.tags[t] = none) (p : TagPlace) : ¬ s.recorded t p := by
  intro hp
  obtain ⟨x, hx, -⟩ := hs.entry hp
  rw [ht] at hx
  cases hx

theorem State.recorded_held {k : Fin 16} {h : Hold} (hk : s.hold.slots[k].hold = some h) : s.recorded h.req.tag (.held k) :=
  ⟨h, hk, rfl⟩

/-- One slot holds a tag's request. -/
theorem State.Placed.slot_unique (hs : s.Placed) {j k : Fin 16} {g h : Hold} (hj : s.hold.slots[j].hold = some g)
    (hk : s.hold.slots[k].hold = some h) (ht : g.req.tag = h.req.tag) : j = k := by
  have := hs.unique (State.recorded_held hj) (ht ▸ State.recorded_held hk)
  exact TagPlace.held.inj this

theorem State.Placed.slotOf_eq_some (hs : s.Placed) {t : Fin 32} {k : Fin 16} {h : Hold} :
    s.slotOf t = some (k, h) ↔ s.hold.slots[k].hold = some h ∧ h.req.tag = t := by
  constructor
  · intro hk
    have hh := slotOf_hold hk
    refine ⟨hh, ?_⟩
    unfold State.slotOf at hk
    split at hk
    · rename_i he
      obtain ⟨x, hx, hxk⟩ := Option.map_eq_some_iff.mp hk
      cases hxk
      obtain ⟨y, hy, hyt⟩ := (hs.place t (.held k)).mp ⟨_, he, rfl⟩
      rw [Option.mem_unique hy hh] at hyt
      exact hyt
    · cases hk
  · rintro ⟨hk, rfl⟩
    obtain ⟨⟨p, w, m⟩, hx, hp⟩ := hs.entry (State.recorded_held hk)
    dsimp only at hp
    subst hp
    simp only [State.slotOf, hx, hk, Option.map_some]

/-- A slot's request is behind its chain's head exactly where its reason is ORDER. -/
theorem State.Placed.behind_iff (hs : s.Placed) {k : Fin 16} {h : Hold} (hk : s.hold.slots[k].hold = some h) :
    s.behind h.req.tag ↔ h.reason = .order := by
  constructor
  · rintro ⟨j, g, hg, ht, hr⟩
    obtain rfl := hs.slot_unique hg hk ht
    rw [Option.mem_unique hg hk] at hr
    exact hr
  · exact fun hr => ⟨k, h, hk, rfl, hr⟩

/-- A tag that is recorded elsewhere than in a slot is not behind a chain's head. -/
theorem State.Placed.not_behind (hs : s.Placed) {t : Fin 32} {p : TagPlace} (hp : s.recorded t p) (hne : ∀ k, p ≠ .held k) :
    ¬ s.behind t := by
  rintro ⟨k, h, hk, rfl, -⟩
  exact hne k (hs.unique hp (State.recorded_held hk))

/-- In a chain without repeats the head is not among those behind it. -/
theorem not_mem_drop_one {α : Type} {l : List α} (hl : l.Nodup) {a : α} (ha : a ∈ l.take 1) : a ∉ l.drop 1 := by
  cases l with
  | nil => simp
  | cons b rest =>
    obtain rfl : a = b := by simpa using ha
    exact (List.nodup_cons.mp hl).1

theorem State.chainsLawful_iff (hs : s.Placed) : s.ChainsLawful ↔ s.Chained none := by
  have hslot : ∀ t, (∃ p ∈ s.slotOf t, p.2.reason = .order) ↔ s.behind t := by
    intro t
    constructor
    · rintro ⟨⟨k, h⟩, hp, hr⟩
      obtain ⟨hk, ht⟩ := hs.slotOf_eq_some.mp hp
      exact ⟨k, h, hk, ht, hr⟩
    · rintro ⟨k, h, hk, ht, hr⟩
      exact ⟨(k, h), hs.slotOf_eq_some.mpr ⟨hk, ht⟩, hr⟩
  have hentry : ∀ (k : Fin 16) (h : Hold), s.hold.slots[k].hold = some h → ∃ x, s.host.tags[h.req.tag] = some x := by
    intro k h hk
    obtain ⟨x, hx, -⟩ := hs.entry (State.recorded_held hk)
    exact ⟨x, hx⟩
  constructor
  · rintro ⟨hn, hm, htail, hhead, hhold⟩
    refine ⟨hn, hm, fun w t ht => ⟨fun hb => .inr ?_, fun h => ?_⟩, fun k h hk x hx => ⟨(hhold k h hk).1 x hx, fun hr => ?_⟩⟩
    · by_contra hd
      have htake : t ∈ s.chains[w].take 1 := by
        rw [← List.take_append_drop 1 s.chains[w], List.mem_append] at ht
        exact ht.resolve_right hd
      obtain ⟨p, hp, hr⟩ := (hslot t).mpr hb
      exact hhead w t htake p hp hr
    · exact (hslot t).mp (htail w t (h.resolve_left (by simp)))
    · obtain ⟨y, hy, hym⟩ := (hhold k h hk).2 hr
      rwa [Option.mem_unique hx hy]
  · rintro ⟨hn, hm, hb, hhold⟩
    refine ⟨hn, hm, fun w t ht => (hslot t).mpr ((hb w t (List.mem_of_mem_drop ht)).mpr (.inr ht)), fun w t ht p hp hr => ?_,
      fun k h hk => ⟨fun x hx => (hhold k h hk x hx).1, fun hr => ?_⟩⟩
    · have := (hb w t (List.mem_of_mem_take ht)).mp ((hslot t).mp ⟨p, hp, hr⟩)
      exact not_mem_drop_one (hn w) ht (this.resolve_left (by simp))
    · obtain ⟨x, hx⟩ := hentry k h hk
      exact ⟨x, hx, (hhold k h hk x hx).2 hr⟩

/-- The laws of traffic, and the relaxed ones with nothing left to do, say the same. -/
theorem State.trafficLawful_iff : s.TrafficLawful ↔ s.Flows (.settled False) ∧ s.hold.Lawful := by
  constructor
  · rintro ⟨ht, hc, hw, hh⟩
    have hp := State.tagsLawful_iff.mp ht
    exact ⟨⟨hp, (State.chainsLawful_iff hp).mp hc, State.waitListsLawful_iff.mp hw, False.elim⟩, hh⟩
  · rintro ⟨⟨hp, hc, hw, -⟩, hh⟩
    exact ⟨State.tagsLawful_iff.mpr hp, (State.chainsLawful_iff hp).mpr hc, State.waitListsLawful_iff.mpr hw, hh⟩

end laws

end Sys2Proof.Machine
end

section
/-! What each kind of update does to the laws of traffic, part by part: a request that leaves its place, one that enters one, one that moves on,
and updates that leave every request where it is (R31, R36, R54, R55, R137). -/

namespace Sys2Proof.Machine

variable {s t : State} {u : Fin 32} {k : Fin 16} {h : Hold}

/-! ### Places (R137) -/

/-- One tag's entry and record replaced. -/
theorem State.Placed.replaced {e : Option TagEntry} (hs : s.Placed) (hq : (t.issue.queue.map fun e => e.tag).Nodup)
    (htag : ∀ v : Fin 32, t.host.tags[v] = if u = v then e else s.host.tags[v])
    (hrec : ∀ (v : Fin 32) (p : TagPlace), t.recorded v p ↔ if u = v then ∃ x ∈ e, x.place = p else s.recorded v p) : t.Placed := by
  refine ⟨hq, fun v p => ?_⟩
  rw [htag, hrec]
  split
  · rfl
  · exact hs.place v p

/-- Every tag's place and record as they were. -/
theorem State.Placed.of_recorded (hs : s.Placed) (hq : t.issue.queue.map (fun e => e.tag) = s.issue.queue.map fun e => e.tag)
    (htag : t.host.tags = s.host.tags) (hrec : ∀ (v : Fin 32) (p : TagPlace), t.recorded v p ↔ s.recorded v p) : t.Placed := by
  refine ⟨hq ▸ hs.queue, fun v p => ?_⟩
  rw [htag, hrec]
  exact hs.place v p

/-- The places that are recorded after a slot is freed. -/
theorem State.recorded_freed (hq : t.issue.queue = s.issue.queue)
    (hf : t.issue.forward = s.issue.forward)
    (hh : ∀ j : Fin 16, t.hold.slots[j].hold = if k = j then none else s.hold.slots[j].hold) (v : Fin 32) (p : TagPlace) :
    t.recorded v p ↔ s.recorded v p ∧ p ≠ .held k := by
  cases p with
  | queued => simp [State.recorded, hq]
  | forwarded m => simp only [State.recorded, hf, ne_eq, reduceCtorEq, not_false_eq_true, and_true]
  | held j =>
    simp only [State.recorded]
    rw [hh]
    by_cases hj : k = j <;> simp [hj, Ne.symm]

/-- A held request that has left its slot and all else (R34, R137). -/
theorem State.Placed.left_slot (hs : s.Placed) (hk : s.hold.slots[k].hold = some h) (hq : t.issue.queue = s.issue.queue)
    (hf : t.issue.forward = s.issue.forward)
    (hh : ∀ j : Fin 16, t.hold.slots[j].hold = if k = j then none else s.hold.slots[j].hold)
    (ht : ∀ v : Fin 32, t.host.tags[v] = if h.req.tag = v then none else s.host.tags[v]) : t.Placed := by
  refine hs.replaced (hq ▸ hs.queue) ht fun v p => ?_
  rw [State.recorded_freed hq hf hh]
  have hrec := State.recorded_held hk
  split
  · rename_i hv
    subst hv
    simpa using fun hp => hs.unique hp hrec
  · rename_i hv
    refine and_iff_left_of_imp fun hp => ?_
    rintro rfl
    obtain ⟨g, hg, hgv⟩ := hp
    exact hv (Option.mem_unique hg hk ▸ hgv)

/-- A held request that has gone into the issue queue (R35, R137). -/
theorem State.Placed.queued_slot (hs : s.Placed) (hk : s.hold.slots[k].hold = some h) {e : IssueEntry} (he : e.tag = h.req.tag)
    (hq : t.issue.queue = s.issue.queue ++ [e]) (hf : t.issue.forward = s.issue.forward)
    (hh : ∀ j : Fin 16, t.hold.slots[j].hold = if k = j then none else s.hold.slots[j].hold)
    (ht : ∀ v : Fin 32, t.host.tags[v] =
      if h.req.tag = v then s.host.tags[h.req.tag].map fun x => { x with place := .queued } else s.host.tags[v]) : t.Placed := by
  have hrec := State.recorded_held hk
  obtain ⟨x, hx, -⟩ := hs.entry hrec
  have hnot : ¬ s.recorded h.req.tag .queued := fun hp => by cases hs.unique hp hrec
  refine hs.replaced ?_ ht fun v p => ?_
  · rw [hq, List.map_append, List.map_singleton, List.nodup_append]
    refine ⟨hs.queue, List.nodup_singleton _, fun a ha b hb => ?_⟩
    rintro rfl
    obtain ⟨y, hy, hya⟩ := List.mem_map.mp ha
    exact hnot ⟨y, hy, by rw [hya, List.mem_singleton.mp hb, he]⟩
  · have hold : ∀ p, t.recorded v p ↔ (s.recorded v p ∧ p ≠ .held k) ∨ (p = .queued ∧ h.req.tag = v) := by
      intro p
      have hfreed := State.recorded_freed (s := s) (t := { t with issue := s.issue }) rfl rfl hh v p
      rw [← hfreed]
      cases p with
      | queued => simp [State.recorded, hq, he, or_and_right, exists_or]
      | forwarded m => simp [State.recorded, hf]
      | held j => simp [State.recorded]
    rw [hold, hx]
    split
    · rename_i hv
      subst hv
      constructor
      · rintro (⟨hp, hne⟩ | ⟨rfl, -⟩)
        · exact absurd (hs.unique hp hrec) hne
        · exact ⟨_, rfl, rfl⟩
      · rintro ⟨y, hy, rfl⟩
        obtain rfl : _ = y := Option.some.inj hy
        exact .inr ⟨rfl, rfl⟩
    · rename_i hv
      refine ⟨?_, fun hp => .inl ⟨hp, ?_⟩⟩
      · rintro (⟨hp, -⟩ | ⟨-, hp⟩)
        · exact hp
        · exact absurd hp hv
      · rintro rfl
        obtain ⟨g, hg, hgv⟩ := hp
        exact hv (Option.mem_unique hg hk ▸ hgv)

/-- A request that has returned from the memory link and left (R161). -/
theorem State.Placed.left_memory (hs : s.Placed) {m : Fin 16} (hm : s.issue.forward[m].busyTag = some u)
    (hq : t.issue.queue = s.issue.queue)
    (hf : ∀ j : Fin 16, t.issue.forward[j] = if m = j then .free else s.issue.forward[j])
    (hh : t.hold.slots = s.hold.slots)
    (ht : ∀ v : Fin 32, t.host.tags[v] = if u = v then none else s.host.tags[v]) : t.Placed := by
  have hrec : s.recorded u (.forwarded m) := hm
  have hold : ∀ v p, t.recorded v p ↔ s.recorded v p ∧ p ≠ .forwarded m := by
    intro v p
    cases p with
    | queued => simp [State.recorded, hq]
    | held j => simp only [State.recorded, hh, ne_eq, reduceCtorEq, not_false_eq_true, and_true]
    | forwarded j =>
      simp only [State.recorded]
      rw [hf]
      by_cases hj : m = j <;> simp [hj, Forward.busyTag, Ne.symm]
  refine hs.replaced (hq ▸ hs.queue) ht fun v p => ?_
  rw [hold]
  split
  · rename_i hv
    subst hv
    simpa using fun hp => hs.unique hp hrec
  · rename_i hv
    refine and_iff_left_of_imp fun hp => ?_
    rintro rfl
    exact hv (Option.some.inj (hm.symm.trans hp))

/-- The head of the issue queue that has gone to the fabric (R157). -/
theorem State.Placed.granted (hs : s.Placed) {m : Fin 16} {e : IssueEntry} {rest : List IssueEntry} {o : Op} {n : Byte} {a : Addr}
    (hq : s.issue.queue = e :: rest) (hm : s.issue.forward[m] = .free) (hq' : t.issue.queue = rest)
    (hf : ∀ j : Fin 16, t.issue.forward[j] = if m = j then .busy e.tag o n a else s.issue.forward[j])
    (hh : t.hold.slots = s.hold.slots)
    (ht : ∀ v : Fin 32, t.host.tags[v] =
      if e.tag = v then s.host.tags[e.tag].map fun x => { x with place := .forwarded m } else s.host.tags[v]) : t.Placed := by
  have hrec : s.recorded e.tag .queued := ⟨e, by simp [hq], rfl⟩
  obtain ⟨x, hx, -⟩ := hs.entry hrec
  have hnodup := hs.queue
  rw [hq, List.map_cons, List.nodup_cons] at hnodup
  have hrest : ∀ y ∈ rest, y.tag ≠ e.tag := fun y hy hye => hnodup.1 (hye ▸ List.mem_map_of_mem hy)
  have hold : ∀ v p, t.recorded v p ↔ (s.recorded v p ∧ ¬ (p = .queued ∧ e.tag = v)) ∨ (p = .forwarded m ∧ e.tag = v) := by
    intro v p
    cases p with
    | queued =>
      simp only [State.recorded, hq, hq', List.mem_cons]
      grind
    | held j => simp [State.recorded, hh]
    | forwarded j =>
      simp only [State.recorded]
      rw [hf]
      by_cases hj : m = j
      · subst hj
        simp [hm, Forward.busyTag]
      · simp [hj, Ne.symm hj]
  refine hs.replaced (hq' ▸ hnodup.2) ht fun v p => ?_
  rw [hold, hx]
  split
  · rename_i hv
    subst hv
    constructor
    · rintro (⟨hp, hne⟩ | ⟨rfl, -⟩)
      · exact absurd ⟨hs.unique hp hrec, rfl⟩ hne
      · exact ⟨_, rfl, rfl⟩
    · rintro ⟨y, hy, rfl⟩
      obtain rfl : _ = y := Option.some.inj hy
      exact .inr ⟨rfl, rfl⟩
  · rename_i hv
    simp [hv]

/-- A request accepted into the issue queue (R143, R155). -/
theorem State.Placed.enter_queue (hs : s.Placed) {e : IssueEntry} {x : TagEntry} (hfree : s.host.tags[e.tag] = none)
    (hx : x.place = .queued) (hq : t.issue.queue = s.issue.queue ++ [e]) (hf : t.issue.forward = s.issue.forward)
    (hh : t.hold.slots = s.hold.slots)
    (ht : ∀ v : Fin 32, t.host.tags[v] = if e.tag = v then some x else s.host.tags[v]) : t.Placed := by
  refine hs.replaced ?_ ht fun v p => ?_
  · rw [hq, List.map_append, List.map_singleton, List.nodup_append]
    refine ⟨hs.queue, List.nodup_singleton _, fun a ha b hb => ?_⟩
    rintro rfl
    obtain ⟨y, hy, hya⟩ := List.mem_map.mp ha
    exact hs.free hfree .queued ⟨y, hy, by rw [hya, List.mem_singleton.mp hb]⟩
  · have hold : t.recorded v p ↔ s.recorded v p ∨ (p = .queued ∧ e.tag = v) := by
      cases p with
      | queued => simp [State.recorded, hq, or_and_right, exists_or]
      | forwarded m => simp [State.recorded, hf]
      | held j => simp [State.recorded, hh]
    rw [hold]
    split
    · rename_i hv
      subst hv
      simp [hs.free hfree, hx, eq_comm]
    · rename_i hv
      simp [hv]

/-- A request accepted into a FREE slot (R31, R143). -/
theorem State.Placed.enter_slot (hs : s.Placed) {x : TagEntry} (hfree : s.host.tags[h.req.tag] = none)
    (hk : s.hold.slots[k].hold = none) (hx : x.place = .held k) (hq : t.issue.queue = s.issue.queue)
    (hf : t.issue.forward = s.issue.forward)
    (hh : ∀ j : Fin 16, t.hold.slots[j].hold = if k = j then some h else s.hold.slots[j].hold)
    (ht : ∀ v : Fin 32, t.host.tags[v] = if h.req.tag = v then some x else s.host.tags[v]) : t.Placed := by
  refine hs.replaced (hq ▸ hs.queue) ht fun v p => ?_
  have hold : t.recorded v p ↔ s.recorded v p ∨ (p = .held k ∧ h.req.tag = v) := by
    cases p with
    | queued => simp [State.recorded, hq]
    | forwarded m => simp [State.recorded, hf]
    | held j =>
      simp only [State.recorded]
      rw [hh]
      by_cases hj : k = j
      · subst hj
        rw [if_pos rfl, hk]
        simp
      · simp [hj, Ne.symm hj]
  rw [hold]
  split
  · rename_i hv
    subst hv
    simp [hs.free hfree, hx, eq_comm]
  · rename_i hv
    simp [hv]

/-- A hold that changes and keeps its request. -/
theorem State.Placed.rehold (hs : s.Placed) {g : Hold} (hk : s.hold.slots[k].hold = some h) (hg : g.req = h.req)
    (hq : t.issue.queue = s.issue.queue) (hf : t.issue.forward = s.issue.forward)
    (hh : ∀ j : Fin 16, t.hold.slots[j].hold = if k = j then some g else s.hold.slots[j].hold)
    (ht : t.host.tags = s.host.tags) : t.Placed := by
  refine hs.of_recorded (by rw [hq]) ht fun v p => ?_
  cases p with
  | queued => simp [State.recorded, hq]
  | forwarded m => simp [State.recorded, hf]
  | held j =>
    simp only [State.recorded]
    rw [hh]
    by_cases hj : k = j
    · subst hj
      rw [if_pos rfl, hk]
      simp [hg]
    · simp [hj]

end Sys2Proof.Machine
end

section
/-! What each kind of update does to the chains and to the wait lists: a head that leaves, a member that becomes the head, a request that joins,
and slots that leave or join a wait list (R36, R54 to R62, R109, R124, R126). -/

namespace Sys2Proof.Machine

variable {s t : State} {o : Option (Fin 24)} {u : Fin 32} {k : Fin 16} {h : Hold} {w : Fin 24} {rest : List (Fin 32)}

/-! ### Chains (R54, R55) -/

/-- What of a tag's entry the chains depend on. -/
def TagEntry.mark (x : TagEntry) : Bool × Option (Fin 24) := (x.member, x.window)

/-- Every hold is one that there was, of the same request and window, and behind its chain's head only where it was. -/
def HoldsKept (s t : State) : Prop :=
  ∀ (j : Fin 16) (g : Hold), t.hold.slots[j].hold = some g →
    ∃ (i : Fin 16) (x : Hold), s.hold.slots[i].hold = some x ∧ x.req.tag = g.req.tag ∧ x.decision.window = g.decision.window ∧
      (g.reason = .order → x.reason = .order)

/-- The members and windows of every tag as they were. -/
def MarksKept (s t : State) : Prop :=
  ∀ v : Fin 32, (t.host.tags[v]).map TagEntry.mark = (s.host.tags[v]).map TagEntry.mark

theorem MarksKept.mem {v : Fin 32} (hm : MarksKept s t) {x : TagEntry} (hx : t.host.tags[v] = some x) :
    ∃ y, s.host.tags[v] = some y ∧ y.member = x.member ∧ y.window = x.window := by
  have h := hm v
  rw [hx, Option.map_some, eq_comm, Option.map_eq_some_iff] at h
  obtain ⟨y, hy, he⟩ := h
  exact ⟨y, hy, congrArg Prod.fst he, congrArg Prod.snd he⟩

theorem MarksKept.symm (hm : MarksKept s t) : MarksKept t s := fun v => (hm v).symm

theorem MarksKept.member_iff (hm : MarksKept s t) (v : Fin 32) (w : Fin 24) :
    (∃ x ∈ t.host.tags[v], x.member = true ∧ x.window = some w) ↔ ∃ x ∈ s.host.tags[v], x.member = true ∧ x.window = some w := by
  constructor <;> rintro ⟨x, hx, hxm, hxw⟩
  · obtain ⟨y, hy, hym, hyw⟩ := hm.mem hx
    exact ⟨y, hy, hym.trans hxm, hyw.trans hxw⟩
  · obtain ⟨y, hy, hym, hyw⟩ := hm.symm.mem hx
    exact ⟨y, hy, hym.trans hxm, hyw.trans hxw⟩

/-- Every hold is of its tag's window, where the holds and the tags' marks are kept. -/
theorem State.Chained.hold_of_kept (hs : s.Chained o) (hh : HoldsKept s t) (hm : MarksKept s t) (k : Fin 16) :
    ∀ h ∈ t.hold.slots[k].hold, ∀ x ∈ t.host.tags[h.req.tag],
      x.window = some h.decision.window ∧ (h.reason = .order → x.member = true) := by
  intro g hg x hx
  obtain ⟨i, y, hy, htag, hwin, hr⟩ := hh k g hg
  obtain ⟨z, hz, hzm, hzw⟩ := hm.mem hx
  obtain ⟨h1, h2⟩ := hs.hold i y hy z ((congrArg (fun v : Fin 32 => s.host.tags[v]) htag).trans hz)
  exact ⟨by rw [← hzw, h1, hwin], fun ho => by rw [← hzm, h2 (hr ho)]⟩

/-- A tag is in one chain only. -/
theorem State.Chained.chain_unique (hs : s.Chained o) {v w : Fin 24} (hv : u ∈ s.chains[v]) (hw : u ∈ s.chains[w]) : v = w := by
  obtain ⟨x, hx, -, hxv⟩ := (hs.member v u).mp hv
  obtain ⟨y, hy, -, hyw⟩ := (hs.member w u).mp hw
  rw [Option.mem_unique hx hy, hyw] at hxv
  exact (Option.some.inj hxv).symm

/-- Nothing that the chains depend on changed. -/
theorem State.Chained.of_kept (hs : s.Chained o) (hc : t.chains = s.chains) (hm : MarksKept s t) (hh : HoldsKept s t)
    (hb : ∀ v, t.behind v ↔ s.behind v) : t.Chained o := by
  refine ⟨fun w => hc ▸ hs.nodup w, fun w v => ?_, fun w v hv => ?_, hs.hold_of_kept hh hm⟩
  · rw [hc, hs.member, hm.member_iff]
  · rw [hb, hc]
    exact hs.behind w v (hc ▸ hv)

/-- With one tag's holds gone, the tags behind a head are those that were, but for it. -/
theorem behind_of_holds (hh : ∀ (j : Fin 16) (g : Hold),
      t.hold.slots[j].hold = some g ↔ s.hold.slots[j].hold = some g ∧ g.req.tag ≠ u) (v : Fin 32) :
    t.behind v ↔ s.behind v ∧ v ≠ u := by
  simp only [State.behind, Option.mem_def, hh]
  constructor
  · rintro ⟨j, g, ⟨hg, hne⟩, rfl, hr⟩
    exact ⟨⟨j, g, hg, rfl, hr⟩, hne⟩
  · rintro ⟨⟨j, g, hg, rfl, hr⟩, hne⟩
    exact ⟨j, g, ⟨hg, hne⟩, rfl, hr⟩

/-- A request in no chain has left (R59). -/
theorem State.Chained.left_plain (hs : s.Chained o) (hu : ∀ w : Fin 24, u ∉ s.chains[w]) (hc : t.chains = s.chains)
    (ht : ∀ v : Fin 32, t.host.tags[v] = if u = v then none else s.host.tags[v])
    (hh : ∀ (j : Fin 16) (g : Hold), t.hold.slots[j].hold = some g ↔ s.hold.slots[j].hold = some g ∧ g.req.tag ≠ u) :
    t.Chained o := by
  have hb := behind_of_holds hh
  refine ⟨fun w => hc ▸ hs.nodup w, fun w v => ?_, fun w v hv => ?_, fun j g hg x hx => ?_⟩
  · rw [hc, hs.member, ht]
    split
    · rename_i hv
      subst hv
      simpa using (hs.member w u).not.mp (hu w)
    · rfl
  · rw [hc] at hv ⊢
    rw [hb, ← hs.behind w v hv]
    refine and_iff_left fun he => ?_
    subst he
    exact hu w hv
  · obtain ⟨hg, hne⟩ := (hh j g).mp hg
    rw [ht, if_neg hne.symm] at hx
    exact hs.hold j g hg x hx

/-- A chain's head has left, and every tag left in the chain is behind it (R60). -/
theorem State.Chained.left_head (hs : s.Chained o) (ho : o = none ∨ o = some w) (hw : s.chains[w] = u :: rest)
    (hc : ∀ v : Fin 24, t.chains[v] = if w = v then rest else s.chains[v])
    (ht : ∀ v : Fin 32, t.host.tags[v] = if u = v then none else s.host.tags[v])
    (hh : ∀ (j : Fin 16) (g : Hold), t.hold.slots[j].hold = some g ↔ s.hold.slots[j].hold = some g ∧ g.req.tag ≠ u) :
    t.Chained (some w) := by
  have hb := behind_of_holds hh
  have hnodup := hs.nodup w
  rw [hw, List.nodup_cons] at hnodup
  have huw : u ∈ s.chains[w] := by rw [hw]; exact List.mem_cons_self
  refine ⟨fun v => ?_, fun v x => ?_, fun v x hx => ?_, fun j g hg x hx => ?_⟩
  · rw [hc]
    split
    · exact hnodup.2
    · exact hs.nodup v
  · rw [hc, ht]
    have hmem := hs.member v x
    split
    · rename_i hv
      subst hv
      rw [hw, List.mem_cons] at hmem
      split
      · rename_i hx
        subst hx
        simpa using hnodup.1
      · rename_i hx
        rw [← hmem, or_iff_right (Ne.symm hx)]
    · rename_i hv
      split
      · rename_i hx
        subst hx
        simpa using fun hx => hv (hs.chain_unique huw hx)
      · exact hmem
  · rw [hc] at hx ⊢
    rw [hb]
    split at hx
    · rename_i hv
      subst hv
      have hxw : x ∈ s.chains[w] := by rw [hw]; exact List.mem_cons_of_mem _ hx
      have hbx : s.behind x := (hs.behind w x hxw).mpr (.inr (by rw [hw]; exact hx))
      exact iff_of_true ⟨hbx, fun he => hnodup.1 (he ▸ hx)⟩ (.inl rfl)
    · rename_i hv
      have hne : x ≠ u := by
        rintro rfl
        exact hv (hs.chain_unique huw hx)
      have how : o ≠ some v := by
        rcases ho with rfl | rfl
        · simp
        · simpa using hv
      rw [if_neg hv, and_iff_left hne, hs.behind v x hx, or_iff_right how, or_iff_right (by simpa using hv)]
  · obtain ⟨hg, hne⟩ := (hh j g).mp hg
    rw [ht, if_neg hne.symm] at hx
    exact hs.hold j g hg x hx

/-- The first tag left in a headless chain is its head once it is no longer held for ORDER (R61). -/
theorem State.Chained.started (hs : s.Chained (some w)) (hw : s.chains[w] = u :: rest) (hc : t.chains = s.chains)
    (hm : MarksKept s t) (hh : HoldsKept s t) (hb : ∀ v, t.behind v ↔ s.behind v ∧ v ≠ u) : t.Chained none := by
  have hnodup := hs.nodup w
  rw [hw, List.nodup_cons] at hnodup
  have huw : u ∈ s.chains[w] := by rw [hw]; exact List.mem_cons_self
  refine ⟨fun w => hc ▸ hs.nodup w, fun w v => ?_, fun v x hx => ?_, hs.hold_of_kept hh hm⟩
  · rw [hc, hs.member, hm.member_iff]
  · rw [hc] at hx ⊢
    rw [hb, hs.behind v x hx, or_iff_right (show ¬ none = some v by simp)]
    by_cases hv : w = v
    · subst hv
      rw [hw, List.mem_cons] at hx
      rw [hw, List.drop_one, List.tail_cons]
      constructor
      · rintro ⟨-, hne⟩
        exact hx.resolve_left hne
      · exact fun hr => ⟨.inl rfl, fun he => hnodup.1 (he ▸ hr)⟩
    · have hne : x ≠ u := by
        rintro rfl
        exact hv (hs.chain_unique huw hx)
      rw [and_iff_left hne, or_iff_right (by simpa using hv)]

/-- A request of a FREE tag that joins the tail of its window's chain where it is a member: behind the head where there is one (R57, R58). -/
theorem State.Chained.entered {e : TagEntry} (hs : s.Chained none) (hfree : s.host.tags[u] = none) (hub : ¬ s.behind u)
    (ht : ∀ v : Fin 32, t.host.tags[v] = if u = v then some e else s.host.tags[v])
    (hc : ∀ v : Fin 24, t.chains[v] = if e.member = true ∧ e.window = some v then s.chains[v] ++ [u] else s.chains[v])
    (hb : ∀ v, t.behind v ↔ s.behind v ∨ (v = u ∧ ∃ w, e.member = true ∧ e.window = some w ∧ s.chains[w] ≠ []))
    (hh : ∀ (j : Fin 16) (g : Hold), t.hold.slots[j].hold = some g →
      (s.hold.slots[j].hold = some g ∧ g.req.tag ≠ u) ∨
        (g.req.tag = u ∧ e.window = some g.decision.window ∧ (g.reason = .order → e.member = true))) : t.Chained none := by
  have hnot : ∀ w : Fin 24, u ∉ s.chains[w] := fun w hu => by
    obtain ⟨x, hx, -⟩ := (hs.member w u).mp hu
    rw [hfree] at hx
    cases hx
  refine ⟨fun v => ?_, fun v x => ?_, fun v x hx => ?_, fun j g hg x hx => ?_⟩
  · rw [hc]
    split
    · rw [List.nodup_append]
      refine ⟨hs.nodup v, List.nodup_singleton _, fun a ha b hb => ?_⟩
      rintro rfl
      exact hnot v (List.mem_singleton.mp hb ▸ ha)
    · exact hs.nodup v
  · rw [hc, ht]
    have hmem := hs.member v x
    by_cases hx : u = x
    · subst hx
      rw [if_pos rfl]
      by_cases he : e.member = true ∧ e.window = some v
      · rw [if_pos he]
        simpa using he
      · rw [if_neg he, iff_false_left (hnot v)]
        simpa using he
    · rw [if_neg hx, ← hmem]
      split
      · simp [Ne.symm hx]
      · rfl
  · rw [hc] at hx ⊢
    rw [hb]
    by_cases hv : e.member = true ∧ e.window = some v
    · rw [if_pos hv] at hx ⊢
      rw [List.mem_append, List.mem_singleton] at hx
      have hex : (∃ w, e.member = true ∧ e.window = some w ∧ s.chains[w] ≠ []) ↔ s.chains[v] ≠ [] := by
        constructor
        · rintro ⟨w, -, hw, hne⟩
          rw [hv.2] at hw
          exact Option.some.inj hw ▸ hne
        · exact fun hne => ⟨v, hv.1, hv.2, hne⟩
      rw [hex]
      cases hcv : s.chains[v] with
      | nil =>
        rw [hcv] at hx
        have hxu : x = u := by simpa using hx
        simp [hxu, hub]
      | cons y ys =>
        rw [hcv] at hx
        have hdrop : (y :: ys ++ [u]).drop 1 = ys ++ [u] := rfl
        rw [hdrop, or_iff_right (show ¬ none = some v by simp), List.mem_append, List.mem_singleton]
        by_cases hxu : x = u
        · simp [hxu]
        · have hxs : x ∈ s.chains[v] := by
            rw [hcv]
            exact hx.resolve_right hxu
          have hbx := hs.behind v x hxs
          rw [hcv, or_iff_right (show ¬ none = some v by simp)] at hbx
          simpa [hxu] using hbx
    · rw [if_neg hv] at hx ⊢
      have hxu : x ≠ u := fun he => hnot v (he ▸ hx)
      rw [hs.behind v x hx]
      simp [hxu]
  · rw [ht] at hx
    rcases hh j g hg with ⟨hg, hne⟩ | ⟨rfl, hwin, hr⟩
    · rw [if_neg hne.symm] at hx
      exact hs.hold j g hg x hx
    · rw [if_pos rfl, Option.mem_some] at hx
      subst hx
      exact ⟨hwin, hr⟩

/-! ### Wait lists (R36, R109, R126) -/

variable {x : Option (Fin 16 × List (Fin 16))} {y : Option (Fin 16)}

/-- Nothing that the wait lists depend on changed. -/
theorem State.Listed.of_kept (hs : s.Listed x y) (hw : ∀ g : Fin 16, t.image.segments[g].waiting = s.image.segments[g].waiting)
    (hl : ∀ g : Fin 16, t.image.isLoading g = s.image.isLoading g) (hk : ∀ k g, t.waitsFor k g ↔ s.waitsFor k g) : t.Listed x y := by
  refine ⟨fun g => hw g ▸ hs.nodup g, fun g k => ?_, fun g hg => ?_, fun z hz => ?_⟩
  · rw [hw, hs.waits, hk]
  · rw [hl]
    exact hs.loading g (hw g ▸ hg)
  · rw [hl, hw]
    exact hs.worked z hz

/-- A slot that waits for no segment may be freed (R36). -/
theorem State.Listed.leaving (hs : s.Listed x none) (hk : ∀ g, ¬ s.waitsFor k g) : s.Listed x (some k) := by
  refine ⟨hs.nodup, fun g j => ?_, hs.loading, hs.worked⟩
  rw [hs.waits]
  constructor
  · rintro ⟨hw, -⟩
    refine ⟨hw, ?_⟩
    rintro ⟨⟩
    exact hk g hw
  · rintro ⟨hw, -⟩
    exact ⟨hw, nofun⟩

/-- The leaving slot is freed, the others as they were (R36). -/
theorem State.Listed.freed (hs : s.Listed x (some k)) (hw : t.image.segments = s.image.segments)
    (hh : ∀ j : Fin 16, t.hold.slots[j].hold = if k = j then none else s.hold.slots[j].hold) : t.Listed x none := by
  have hload : ∀ g, t.image.isLoading g = s.image.isLoading g := fun g => by rw [ImageStore.isLoading, hw]; rfl
  refine ⟨fun g => hw ▸ hs.nodup g, fun g j => ?_, fun g hg => ?_, fun z hz => ?_⟩
  · rw [hw, hs.waits, State.waitsFor, State.waitsFor, hh]
    by_cases hj : k = j <;> simp [hj]
  · rw [hload]
    exact hs.loading g (hw ▸ hg)
  · rw [hload, hw]
    exact hs.worked z hz

/-- A slot that waits for no segment is held on, or held anew, and still waits for none. -/
theorem State.Listed.held (hs : s.Listed x none) (hk : ∀ g, ¬ s.waitsFor k g) (hr : h.reason ≠ .imageWait)
    (hw : t.image.segments = s.image.segments)
    (hh : ∀ j : Fin 16, t.hold.slots[j].hold = if k = j then some h else s.hold.slots[j].hold) : t.Listed x none := by
  have hload : ∀ g, t.image.isLoading g = s.image.isLoading g := fun g => by rw [ImageStore.isLoading, hw]; rfl
  refine hs.of_kept (fun g => by rw [hw]) hload fun j g => ?_
  rw [State.waitsFor, hh]
  split
  · rename_i hj
    subst hj
    simpa [hr] using hk g
  · rfl

/-- A slot that waited for no segment joins the tail of a LOADING segment's list (R124). -/
theorem State.Listed.joined {g : Fin 16} (hs : s.Listed x none) (hk : ∀ j, ¬ s.waitsFor k j) (hr : h.reason = .imageWait)
    (hg : h.decision.ruling.segment = some g) (hl : s.image.isLoading g = true)
    (hw : ∀ j : Fin 16, t.image.segments[j].waiting =
      if g = j then s.image.segments[g].waiting ++ [k] else s.image.segments[j].waiting)
    (hload : ∀ j : Fin 16, t.image.isLoading j = s.image.isLoading j)
    (hh : ∀ j : Fin 16, t.hold.slots[j].hold = if k = j then some h else s.hold.slots[j].hold) : t.Listed x none := by
  have hnot : ∀ j : Fin 16, k ∉ s.image.segments[j].waiting := fun j hj => hk j ((hs.waits j k).mp hj).1
  have hx : ∀ z ∈ x, g ≠ z.1 := by
    rintro z hz rfl
    rw [(hs.worked z hz).1] at hl
    cases hl
  refine ⟨fun j => ?_, fun j i => ?_, fun j hj => ?_, fun z hz => ?_⟩
  · rw [hw]
    split
    · rw [List.nodup_append]
      refine ⟨hs.nodup g, List.nodup_singleton _, fun a ha b hb => ?_⟩
      rintro rfl
      exact hnot g (List.mem_singleton.mp hb ▸ ha)
    · exact hs.nodup j
  · have hold := hs.waits j i
    have hwait : t.waitsFor i j ↔ s.waitsFor i j ∨ (i = k ∧ g = j) := by
      have := hk j
      simp only [State.waitsFor] at this ⊢
      rw [hh]
      by_cases hi : k = i
      · subst hi
        rw [if_pos rfl, or_iff_right this]
        simp [hr, hg]
      · rw [if_neg hi, or_iff_left (fun hk => hi hk.1.symm)]
    rw [and_iff_left (show none ≠ some i by simp)] at hold ⊢
    rw [hw, hwait]
    split
    · rename_i hj
      subst hj
      rw [List.mem_append, List.mem_singleton, hold, and_iff_left rfl]
    · rename_i hj
      rw [hold, or_iff_left (fun hk => hj hk.2)]
  · rw [hload]
    rw [hw] at hj
    split at hj
    · rename_i he
      exact .inl (he ▸ hl)
    · exact hs.loading j hj
  · rw [hload, hw, if_neg (hx z hz)]
    exact hs.worked z hz

/-- A slot leaves every wait list, the others keeping their order (R36). -/
theorem State.Listed.left_lists (hs : s.Listed x none) (hh : t.hold.slots = s.hold.slots)
    (hw : ∀ g : Fin 16, t.image.segments[g].waiting = s.image.segments[g].waiting.filter fun j => j ≠ k)
    (hload : ∀ g : Fin 16, t.image.isLoading g = s.image.isLoading g) :
    t.Listed (x.map fun z => (z.1, z.2.filter fun j => j ≠ k)) (some k) := by
  refine ⟨fun g => ?_, fun g j => ?_, fun g hg => ?_, fun z hz => ?_⟩
  · rw [hw]
    exact (hs.nodup g).filter _
  · have hwait : t.waitsFor j g ↔ s.waitsFor j g := by rw [State.waitsFor, State.waitsFor, hh]
    rw [hw, List.mem_filter, hs.waits, hwait, and_iff_left (show none ≠ some j by simp)]
    simp [ne_comm]
  · have hne : s.image.segments[g].waiting ≠ [] := by
      intro he
      rw [hw, he] at hg
      exact hg rfl
    rw [hload]
    rcases hs.loading g hne with hl | ⟨l, rfl⟩
    · exact .inl hl
    · exact .inr ⟨_, rfl⟩
  · obtain ⟨a, ha, rfl⟩ := Option.map_eq_some_iff.mp hz
    obtain ⟨h1, h2⟩ := hs.worked a ha
    exact ⟨(hload a.1).trans h1, by rw [hw, h2]⟩

end Sys2Proof.Machine
end

section
/-! The shared operations on the laws of traffic: answers, forwards, the cascade of a chain and the working through of a wait list, each from one
stage of an event to a later one (R34, R35, R59 to R63, R126). -/

namespace Sys2Proof.Machine

/-! ### The start of a chain's first member, case by case (R61) -/

section starts

variable {s : State} {k : Fin 16} {h : Hold}

theorem startHead_pass (hr : h.decision.ruling = .pass) :
    s.startHead k h = (s.forwardSlot k h (issueEntry h.req h.decision.downstream) .passed, false) := by
  simp only [State.startHead, hr]

theorem startHead_defer (hr : h.decision.ruling = .defer) : s.startHead k h = (s.holdDefer k h, false) := by
  simp only [State.startHead, hr]

theorem startHead_deny (hr : h.decision.ruling = .deny) : s.startHead k h = (s.answerSlot k h .refused [] .refused, true) := by
  simp only [State.startHead, hr]

theorem startHead_discard (hr : h.decision.ruling = .discard) : s.startHead k h = (s.answerSlot k h .ok [] .answered, true) := by
  simp only [State.startHead, hr]

theorem startHead_wait {g : Fin 16} {p : Nat} (hr : h.decision.ruling = .serve g p) (hl : s.image.isLoading g = true) :
    s.startHead k h = (s.holdImageWait k h g, false) := by
  simp only [State.startHead, hr, hl, if_true]

theorem startHead_serve {g : Fin 16} {p : Nat} (hr : h.decision.ruling = .serve g p) (hl : s.image.isLoading g = false) :
    s.startHead k h = ((s.serve g p h.req).1.answerServed k h (s.serve g p h.req).2, true) := by
  simp only [State.startHead, hr, hl, Bool.false_eq_true, if_false]

end starts

/-! ### A chain replaced commutes with what reads no chain -/

section chains

variable (s : State) (w : Fin 24) (l : List (Fin 32)) (k : Fin 16) (h : Hold)

theorem freeSlot_setChain (o : LastOutcome) : (s.setChain w l).freeSlot k o = (s.freeSlot k o).setChain w l := by
  cases hk : s.hold.slots[k].hold with
  | none => rw [freeSlot_free hk, freeSlot_free (s := s.setChain w l) hk]
  | some h =>
    rw [freeSlot_held hk, freeSlot_held (s := s.setChain w l) hk]
    rfl

theorem answerSlot_setChain (st : HostStatus) (d : List Byte) (o : LastOutcome) :
    (s.setChain w l).answerSlot k h st d o = (s.answerSlot k h st d o).setChain w l :=
  congrArg (·.setTag h.req.tag none) (freeSlot_setChain (s.respond h.req.tag st d) w l k o)

theorem forwardSlot_setChain (e : IssueEntry) (o : LastOutcome) :
    (s.setChain w l).forwardSlot k h e o = (s.forwardSlot k h e o).setChain w l :=
  congrArg (·.moveTag h.req.tag .queued) (freeSlot_setChain (s.enqueue e) w l k o)

theorem serve_setChain (g : Fin 16) (p : Nat) (r : HostRequest) :
    (s.setChain w l).serve g p r = ((s.serve g p r).1.setChain w l, (s.serve g p r).2) := by
  unfold State.serve
  dsimp only [State.setChain, State.setChains_image]
  cases s.image.segments[g].live with
  | none => rfl
  | some x =>
    dsimp only
    split_ifs <;> rfl

theorem answerServed_setChain (out : Option (List Byte)) :
    (s.setChain w l).answerServed k h out = (s.answerServed k h out).setChain w l := by
  cases out <;> exact answerSlot_setChain s w l k h _ _ _

theorem startHead_setChain : (s.setChain w l).startHead k h = ((s.startHead k h).1.setChain w l, (s.startHead k h).2) := by
  cases hr : h.decision.ruling with
  | pass => rw [startHead_pass hr, startHead_pass hr, forwardSlot_setChain]
  | defer =>
    rw [startHead_defer hr, startHead_defer hr]
    rfl
  | deny => rw [startHead_deny hr, startHead_deny hr, answerSlot_setChain]
  | discard => rw [startHead_discard hr, startHead_discard hr, answerSlot_setChain]
  | serve g p =>
    cases hl : s.image.isLoading g with
    | true =>
      rw [startHead_wait hr hl, startHead_wait (s := s.setChain w l) hr hl]
      rfl
    | false =>
      rw [startHead_serve hr hl, startHead_serve (s := s.setChain w l) hr hl, serve_setChain, answerServed_setChain]

theorem setChain_setChain (m : List (Fin 32)) : (s.setChain w l).setChain w m = s.setChain w m := by
  simp only [State.setChain, State.setChains, table_set_set]

/-- The cascade, from the start of its first member (R60 to R62). -/
theorem cascade_cons {t : Fin 32} (rest : List (Fin 32)) (hk : s.slotOf t = some (k, h)) :
    State.cascade w (t :: rest) s =
      if (s.startHead k h).2 = true then State.cascade w rest (s.startHead k h).1
      else (s.startHead k h).1.setChain w (t :: rest) := by
  simp only [State.cascade, hk]
  rcases s.startHead k h with ⟨s', _ | _⟩ <;> rfl

/-- The cascade reads nothing of its chain but the members that it is given. -/
theorem cascade_setChain (m : List (Fin 32)) : State.cascade w m (s.setChain w l) = State.cascade w m s := by
  induction m generalizing s l with
  | nil => exact setChain_setChain s w l []
  | cons t rest ih =>
    have hslot : (s.setChain w l).slotOf t = s.slotOf t := rfl
    cases hk : s.slotOf t with
    | none =>
      simp only [State.cascade, hslot, hk]
      exact setChain_setChain s w l _
    | some y =>
      obtain ⟨k, h⟩ := y
      rw [cascade_cons s w k h rest hk, cascade_cons (s.setChain w l) w k h rest hk, startHead_setChain]
      split
      · exact ih _ _
      · exact setChain_setChain _ w l _

end chains

/-! ### Updates that leave the traffic where it is -/

/-- What of a hold the traffic depends on. -/
def Hold.core (h : Hold) : HostRequest × Decision × Reason := (h.req, h.decision, h.reason)

/-- The traffic of two states is the same: tags, issue queue, forward table, holds, chains and wait lists, and which segments are LOADING. -/
structure SameTraffic (s t : State) : Prop where
  tags : t.host.tags = s.host.tags
  queue : t.issue.queue = s.issue.queue
  forward : t.issue.forward = s.issue.forward
  holds : ∀ j : Fin 16, (t.hold.slots[j].hold).map Hold.core = (s.hold.slots[j].hold).map Hold.core
  chains : t.chains = s.chains
  waiting : ∀ g : Fin 16, t.image.segments[g].waiting = s.image.segments[g].waiting
  loading : ∀ g : Fin 16, t.image.isLoading g = s.image.isLoading g

section same

variable {s t : State} {e : Stage} {k : Fin 16} {h : Hold}

/-- What can be told from the cores of two slots' holds is the same of both where their cores are. -/
theorem core_exists {a b : Option Hold} (hab : a.map Hold.core = b.map Hold.core) (P : HostRequest × Decision × Reason → Prop) :
    (∃ x ∈ a, P x.core) ↔ ∃ x ∈ b, P x.core := by
  have hmap : ∀ c : Option Hold, (∃ x ∈ c, P x.core) ↔ ∃ y ∈ c.map Hold.core, P y := by
    intro c
    cases c <;> simp
  rw [hmap, hmap, hab]

theorem SameTraffic.flows (h : SameTraffic s t) (hs : s.Flows e) (hn : e.notices → t.NoticesSound) : t.Flows e := by
  have hrec : ∀ (v : Fin 32) (p : TagPlace), t.recorded v p ↔ s.recorded v p := by
    intro v p
    cases p with
    | queued => simp only [State.recorded, h.queue]
    | forwarded m => simp only [State.recorded, h.forward]
    | held j => exact core_exists (h.holds j) fun c => c.1.tag = v
  have hbehind : ∀ v, t.behind v ↔ s.behind v := fun v =>
    exists_congr fun j => core_exists (h.holds j) fun c => c.1.tag = v ∧ c.2.2 = .order
  have hwaits : ∀ k g, t.waitsFor k g ↔ s.waitsFor k g := fun k g =>
    core_exists (h.holds k) fun c => c.2.2 = .imageWait ∧ c.2.1.ruling.segment = some g
  have hholds : HoldsKept s t := by
    intro j g hg
    have hj := h.holds j
    rw [hg, Option.map_some, eq_comm, Option.map_eq_some_iff] at hj
    obtain ⟨x, hx, hxg⟩ := hj
    have hreq : x.req = g.req := congrArg Prod.fst hxg
    have hdec : x.decision = g.decision := congrArg (fun c => c.2.1) hxg
    have hreason : x.reason = g.reason := congrArg (fun c => c.2.2) hxg
    exact ⟨j, x, hx, by rw [hreq], by rw [hdec], fun hr => hreason.trans hr⟩
  exact ⟨hs.placed.of_recorded (by rw [h.queue]) h.tags hrec,
    hs.chained.of_kept h.chains (fun v => by rw [h.tags]) hholds hbehind,
    hs.listed.of_kept h.waiting h.loading hwaits, hn⟩

/-- An update of the windows, the port, the pin, the queue of commands, the image bytes, the timeouts or the wires' records. -/
theorem State.Flows.frame (hs : s.Flows e) (h : SameTraffic s t) (hn : t.notices = s.notices) (hh : t.hold.slots = s.hold.slots) :
    t.Flows e :=
  h.flows hs fun he => (hs.notices he).of_eq hn hh

/-- The traffic is the same where the notices only are not. -/
theorem sameTraffic_setNotices (q : NoticeQueue) : SameTraffic s (s.setNotices q) :=
  ⟨rfl, rfl, rfl, fun _ => rfl, rfl, fun _ => rfl, fun _ => rfl⟩

theorem State.Flows.post (hs : s.Flows e) {d : Detail} (hd : d.kind ≠ .hold) : (s.post d).Flows e :=
  (sameTraffic_setNotices _).flows hs fun he => (hs.notices he).post hd

theorem State.Flows.respond (hs : s.Flows e) (v : Fin 32) (st : HostStatus) (d : List Byte) : (s.respond v st d).Flows e :=
  hs.frame ⟨rfl, rfl, rfl, fun _ => rfl, rfl, fun _ => rfl, fun _ => rfl⟩ rfl rfl

/-- What SERVE does to the bytes and the notices leaves the traffic (R122, R123, R125). -/
theorem State.Flows.serve (hs : s.Flows e) (g : Fin 16) (p : Nat) (r : HostRequest) : (s.serve g p r).1.Flows e := by
  unfold State.serve
  split
  · split
    · split
      · exact hs.frame ⟨rfl, rfl, rfl, fun _ => rfl, rfl, fun _ => rfl, fun _ => rfl⟩ rfl rfl
      · exact hs.post (by simp [Detail.kind])
    · exact hs.post (by simp [Detail.kind])
  · exact hs.post (by simp [Detail.kind])

/-- SERVE leaves the hold table, the chains and the host tags. -/
theorem serve_fields (s : State) (g : Fin 16) (p : Nat) (r : HostRequest) :
    (s.serve g p r).1.hold = s.hold ∧ (s.serve g p r).1.chains = s.chains ∧ (s.serve g p r).1.host = s.host := by
  unfold State.serve
  split
  · split
    · split <;> exact ⟨rfl, rfl, rfl⟩
    · exact ⟨rfl, rfl, rfl⟩
  · exact ⟨rfl, rfl, rfl⟩

/-- A hold that keeps its request, decision and reason. -/
theorem State.Flows.putHold_same (hs : s.Flows e) (hk : s.hold.slots[k].hold = some h) {g : Hold} (hg : g.core = h.core) :
    (s.putHold k g).Flows e := by
  have hreason : g.reason = h.reason := congrArg (fun c => c.2.2) hg
  refine SameTraffic.flows (s := s) ⟨rfl, rfl, rfl, fun j => ?_, rfl, fun _ => rfl, fun _ => rfl⟩ hs fun he => ?_
  · simp only [State.putHold, State.setHold_hold]
    rw [table_set_get]
    split
    · rename_i hj
      subst hj
      rw [hk, Option.map_some, Option.map_some, hg]
    · rfl
  · refine (hs.notices he).putHold fun x hx hr => ?_
    rw [Option.mem_unique hx hk] at hr
    exact hreason.trans hr

theorem State.Flows.elapse (hs : s.Flows e) (r : Nat) : (s.setHold (s.hold.elapse r)).Flows e := by
  refine SameTraffic.flows (s := s) ⟨rfl, rfl, rfl, fun j => ?_, rfl, fun _ => rfl, fun _ => rfl⟩ hs fun he => (hs.notices he).elapse r
  have hj : (s.setHold (s.hold.elapse r)).hold.slots[j] = s.hold.slots[j].elapse r := tableMap_get _ _ j
  rw [hj, Slot.elapse, Option.map_map]
  rfl

end same

/-! ### Requests that leave their slot (R34, R35) -/

/-- The chain that a tag's entry makes it a member of (R54, R136). -/
def chainedIn (x : Option TagEntry) : Option (Fin 24) := x.bind fun y => if y.member = true then y.window else none

theorem chainedIn_eq_some {x : Option TagEntry} {w : Fin 24} :
    chainedIn x = some w ↔ ∃ y ∈ x, y.member = true ∧ y.window = some w := by
  cases x <;> simp [chainedIn]

/-- A request has left, and the advance of its chain is all that is left to do of that (R59, R60). -/
def State.Erased (e : Stage) (u : Fin 32) (x : Option TagEntry) (s : State) : Prop :=
  (chainedIn x = none → s.Flows e) ∧
  ∀ w, chainedIn x = some w → ∃ rest, s.chains[w] = u :: rest ∧ (s.setChain w rest).Flows { e with headless := some w }

section leaves

variable {s t : State} {e : Stage} {k : Fin 16} {h : Hold} {u : Fin 32} {w : Fin 24} {rest : List (Fin 32)}

theorem State.Flows.setChain {o : Option (Fin 24)} {l : List (Fin 32)} (hp : s.Placed) (hl : s.Listed e.working e.leaving)
    (hn : e.notices → s.NoticesSound) (hc : (s.setChain w l).Chained o) : (s.setChain w l).Flows { e with headless := o } :=
  ⟨⟨hp.queue, hp.place⟩, hc, ⟨hl.nodup, hl.waits, hl.loading, hl.worked⟩, hn⟩

/-- The entry of a chain after one chain is replaced. -/
theorem setChain_get (s : State) (w v : Fin 24) (l : List (Fin 32)) :
    (s.setChain w l).chains[v] = if w = v then l else s.chains[v] := table_set_get _ _ _ _

/-- A member that is not behind a head is the head (R55). -/
theorem State.Chained.head (hs : s.Chained none) (hu : u ∈ s.chains[w]) (hb : ¬ s.behind u) : ∃ rest, s.chains[w] = u :: rest := by
  have hd : u ∉ s.chains[w].drop 1 := fun hd => hb ((hs.behind w u hu).mpr (.inr hd))
  cases hc : s.chains[w] with
  | nil =>
    rw [hc] at hu
    cases hu
  | cons v rest =>
    rw [hc] at hu hd
    exact ⟨rest, by rw [(List.mem_cons.mp hu).resolve_right hd]⟩

/-- A request that was not behind a head has left all places. -/
theorem State.Chained.erased (hs : s.Chained none) (he : e.headless = none) (hb : ¬ s.behind u) (hc : t.chains = s.chains)
    (ht : ∀ v : Fin 32, t.host.tags[v] = if u = v then none else s.host.tags[v])
    (hh : ∀ (j : Fin 16) (g : Hold), t.hold.slots[j].hold = some g ↔ s.hold.slots[j].hold = some g ∧ g.req.tag ≠ u)
    (hp : t.Placed) (hl : t.Listed e.working e.leaving) (hn : e.notices → t.NoticesSound) : t.Erased e u s.host.tags[u] := by
  have hmem : ∀ w : Fin 24, u ∈ s.chains[w] ↔ chainedIn s.host.tags[u] = some w := fun w =>
    (hs.member w u).trans chainedIn_eq_some.symm
  constructor
  · intro hx
    refine ⟨hp, ?_, hl, hn⟩
    rw [he]
    exact hs.left_plain (fun w hu => by rw [(hmem w).mp hu] at hx; cases hx) hc ht hh
  · intro w hx
    obtain ⟨rest, hw⟩ := hs.head ((hmem w).mpr hx) hb
    refine ⟨rest, by rw [hc, hw], State.Flows.setChain hp hl hn ?_⟩
    exact hs.left_head (.inl rfl) hw (fun v => by rw [setChain_get, hc]) ht hh

/-- The holds of the other tags, after a slot is freed. -/
theorem State.Placed.holds_of_freed (hs : s.Placed) (hk : s.hold.slots[k].hold = some h)
    (hh : ∀ j : Fin 16, t.hold.slots[j].hold = if k = j then none else s.hold.slots[j].hold) (j : Fin 16) (g : Hold) :
    t.hold.slots[j].hold = some g ↔ s.hold.slots[j].hold = some g ∧ g.req.tag ≠ h.req.tag := by
  rw [hh]
  split
  · rename_i hj
    subst hj
    rw [hk]
    constructor
    · nofun
    · rintro ⟨hg, hne⟩
      exact absurd (congrArg (fun x : Hold => x.req.tag) (Option.some.inj hg)).symm hne
  · rename_i hj
    exact (and_iff_left_of_imp fun hg he => hj (hs.slot_unique hk hg he.symm)).symm

/-- The holds after one slot is replaced. -/
theorem set_get_hold (v : Vector Slot 16) (k j : Fin 16) (x : Slot) :
    ((v.set k x)[j]).hold = if k = j then x.hold else v[j].hold := by
  rw [table_set_get]
  split <;> rfl

theorem State.NoticesSound.answerSlot (hs : s.NoticesSound) (k : Fin 16) (h : Hold) (st : HostStatus) (d : List Byte) (o : LastOutcome) :
    (s.answerSlot k h st d o).NoticesSound := by
  have hr : (s.respond h.req.tag st d).NoticesSound := hs.of_eq rfl rfl
  exact (hr.freeSlot o).of_eq rfl rfl

theorem State.NoticesSound.forwardSlot (hs : s.NoticesSound) (k : Fin 16) (h : Hold) (x : IssueEntry) (o : LastOutcome) :
    (s.forwardSlot k h x o).NoticesSound := by
  have hq : (s.enqueue x).NoticesSound := hs.of_eq rfl rfl
  exact (hq.freeSlot o).of_eq rfl rfl

theorem answerSlot_hold (hk : s.hold.slots[k].hold = some h) (st : HostStatus) (d : List Byte) (o : LastOutcome) (j : Fin 16) :
    (s.answerSlot k h st d o).hold.slots[j].hold = if k = j then none else s.hold.slots[j].hold := by
  rw [answerSlot_held hk]
  exact set_get_hold _ _ _ _

theorem forwardSlot_hold (hk : s.hold.slots[k].hold = some h) (x : IssueEntry) (o : LastOutcome) (j : Fin 16) :
    (s.forwardSlot k h x o).hold.slots[j].hold = if k = j then none else s.hold.slots[j].hold := by
  rw [forwardSlot_held hk]
  exact set_get_hold _ _ _ _

/-- What answering a slot's request does to the traffic but for its chain. -/
theorem State.Flows.answerSlot_parts (hs : s.Flows e) (hl : e.leaving = some k) (hk : s.hold.slots[k].hold = some h) (st : HostStatus)
    (d : List Byte) (o : LastOutcome) :
    let t := s.answerSlot k h st d o
    t.Placed ∧ t.Listed e.working none ∧ t.chains = s.chains ∧
    (∀ v : Fin 32, t.host.tags[v] = if h.req.tag = v then none else s.host.tags[v]) ∧
    ∀ (j : Fin 16) (g : Hold), t.hold.slots[j].hold = some g ↔ s.hold.slots[j].hold = some g ∧ g.req.tag ≠ h.req.tag := by
  have hlist := hs.listed
  rw [hl] at hlist
  have hh := answerSlot_hold hk st d o
  have heq := answerSlot_held hk st d o
  have htags : ∀ v : Fin 32, (s.answerSlot k h st d o).host.tags[v] = if h.req.tag = v then none else s.host.tags[v] := by
    intro v
    rw [heq]
    exact table_set_get _ _ _ _
  exact ⟨hs.placed.left_slot hk (by rw [heq]) (by rw [heq]) hh htags, hlist.freed (by rw [heq]) hh, by rw [heq], htags,
    hs.placed.holds_of_freed hk hh⟩

/-- A request answered from its slot, where it was not behind a head (R35). -/
theorem State.Flows.answerSlot (hs : s.Flows e) (he : e.headless = none) (hl : e.leaving = some k) (hk : s.hold.slots[k].hold = some h)
    (hr : h.reason ≠ .order) (st : HostStatus) (d : List Byte) (o : LastOutcome) :
    (s.answerSlot k h st d o).Erased { e with leaving := none } h.req.tag s.host.tags[h.req.tag] := by
  obtain ⟨hp, hlist, hc, ht, hh⟩ := hs.answerSlot_parts hl hk st d o
  have hchain := hs.chained
  rw [he] at hchain
  exact hchain.erased he ((hs.placed.behind_iff hk).not.mpr hr) hc ht hh hp hlist fun hn => (hs.notices hn).answerSlot k h st d o

/-- The first tag left in a headless chain answered (R61). -/
theorem State.Flows.answerSlot_head (hs : s.Flows e) (he : e.headless = some w) (hl : e.leaving = some k)
    (hk : s.hold.slots[k].hold = some h) (hw : s.chains[w] = h.req.tag :: rest) (st : HostStatus) (d : List Byte) (o : LastOutcome) :
    ((s.answerSlot k h st d o).setChain w rest).Flows { e with leaving := none } := by
  obtain ⟨hp, hlist, hc, ht, hh⟩ := hs.answerSlot_parts hl hk st d o
  have hchain := hs.chained
  rw [he] at hchain
  have hflow := State.Flows.setChain (e := { e with leaving := none }) (w := w) (l := rest) hp hlist
    (fun hn => (hs.notices hn).answerSlot k h st d o)
    (hchain.left_head (.inr rfl) hw (fun v => by rw [setChain_get, hc]) ht hh)
  rw [← he] at hflow
  exact hflow

/-- What putting a slot's request into the issue queue does to the traffic but for its chain. -/
theorem State.Flows.forwardSlot_parts (hs : s.Flows e) (hl : e.leaving = some k) (hk : s.hold.slots[k].hold = some h)
    {x : IssueEntry} (hx : x.tag = h.req.tag) (o : LastOutcome) :
    let t := s.forwardSlot k h x o
    t.Placed ∧ t.Listed e.working none ∧ t.chains = s.chains ∧ MarksKept s t ∧ HoldsKept s t ∧
    ∀ v, t.behind v ↔ s.behind v ∧ v ≠ h.req.tag := by
  have hlist := hs.listed
  rw [hl] at hlist
  have hh := forwardSlot_hold hk x o
  have heq := forwardSlot_held hk x o
  have htags : ∀ v : Fin 32, (s.forwardSlot k h x o).host.tags[v] =
      if h.req.tag = v then s.host.tags[h.req.tag].map fun x => { x with place := .queued } else s.host.tags[v] := by
    intro v
    rw [heq]
    exact table_set_get _ _ _ _
  have hholds := hs.placed.holds_of_freed hk hh
  refine ⟨hs.placed.queued_slot hk hx (by rw [heq]) (by rw [heq]) hh htags, hlist.freed (by rw [heq]) hh, by rw [heq], fun v => ?_,
    fun j g hg => ⟨j, g, ((hholds j g).mp hg).1, rfl, rfl, id⟩, behind_of_holds hholds⟩
  rw [htags]
  split
  · rename_i hv
    subst hv
    rw [Option.map_map]
    rfl
  · rfl

/-- A request put into the issue queue from its slot, where it was not behind a head (R35, R77). -/
theorem State.Flows.forwardSlot (hs : s.Flows e) (hl : e.leaving = some k) (hk : s.hold.slots[k].hold = some h)
    (hr : h.reason ≠ .order) {x : IssueEntry} (hx : x.tag = h.req.tag) (o : LastOutcome) :
    (s.forwardSlot k h x o).Flows { e with leaving := none } := by
  obtain ⟨hp, hlist, hc, hm, hh, hb⟩ := hs.forwardSlot_parts hl hk hx o
  refine ⟨hp, hs.chained.of_kept hc hm hh fun v => ?_, hlist, fun hn => (hs.notices hn).forwardSlot k h x o⟩
  rw [hb]
  refine and_iff_left_of_imp fun hv he => ?_
  rw [he] at hv
  exact hr ((hs.placed.behind_iff hk).mp hv)

/-- The first tag left in a headless chain put into the issue queue: it stays as the head (R61). -/
theorem State.Flows.forwardSlot_head (hs : s.Flows e) (he : e.headless = some w) (hl : e.leaving = some k)
    (hk : s.hold.slots[k].hold = some h) (hw : s.chains[w] = h.req.tag :: rest) {x : IssueEntry} (hx : x.tag = h.req.tag)
    (o : LastOutcome) : (s.forwardSlot k h x o).Flows { e with headless := none, leaving := none } := by
  obtain ⟨hp, hlist, hc, hm, hh, hb⟩ := hs.forwardSlot_parts hl hk hx o
  have hchain := hs.chained
  rw [he] at hchain
  exact ⟨hp, hchain.started hw hc hm hh hb, hlist, fun hn => (hs.notices hn).forwardSlot k h x o⟩

/-- What taking a member of a headless chain as its head, in its slot, does to places and chain: it is behind no head any more (R61). -/
theorem State.Flows.started_in_place (hs : s.Flows e) (he : e.headless = some w) (hk : s.hold.slots[k].hold = some h)
    (hw : s.chains[w] = h.req.tag :: rest) {g : Hold} (hreq : g.req = h.req) (hdec : g.decision = h.decision) (hg : g.reason ≠ .order)
    (hq : t.issue = s.issue) (hc : t.chains = s.chains) (ht : t.host = s.host)
    (hh : ∀ j : Fin 16, t.hold.slots[j].hold = if k = j then some g else s.hold.slots[j].hold) :
    t.Placed ∧ t.Chained none := by
  have hchain := hs.chained
  rw [he] at hchain
  refine ⟨hs.placed.rehold hk hreq (by rw [hq]) (by rw [hq]) hh (by rw [ht]),
    hchain.started hw hc (fun v => by rw [ht]) (fun j x hx => ?_) fun v => ?_⟩
  · rw [hh] at hx
    split at hx
    · rename_i hj
      obtain rfl := Option.some.inj hx
      exact ⟨k, h, hk, by rw [hreq], by rw [hdec], fun ho => absurd ho hg⟩
    · exact ⟨j, x, hx, rfl, rfl, id⟩
  · constructor
    · rintro ⟨j, x, hx, rfl, hr⟩
      rw [Option.mem_def, hh] at hx
      split at hx
      · obtain rfl := Option.some.inj hx
        exact absurd hr hg
      · rename_i hj
        exact ⟨⟨j, x, hx, rfl, hr⟩, fun he => hj (hs.placed.slot_unique hk hx he.symm)⟩
    · rintro ⟨⟨j, x, hx, rfl, hr⟩, hne⟩
      refine ⟨j, x, ?_, rfl, hr⟩
      rw [Option.mem_def, hh, if_neg]
      · exact hx
      · rintro rfl
        exact hne (by rw [Option.mem_unique hx hk])

/-- A slot held for ORDER waits for no segment. -/
theorem State.not_waitsFor (hk : s.hold.slots[k].hold = some h) (hr : h.reason ≠ .imageWait) (g : Fin 16) : ¬ s.waitsFor k g := by
  rintro ⟨x, hx, hxr, -⟩
  rw [Option.mem_unique hx hk] at hxr
  exact hr hxr

/-- A hold at the start of its deadline for DEFER, its notice in the queue (R33, R38, R47). -/
def Hold.deferred (h : Hold) (n : Nat) : Hold := { h with reason := .defer, deadline := some n, renewals := 0, notice := .queued }

/-- A hold at the start of its deadline for IMAGE_WAIT (R33, R38). -/
def Hold.waiting (h : Hold) (n : Nat) : Hold := { h with reason := .imageWait, deadline := some n, renewals := 0, notice := .none }

theorem putHold_hold (s : State) (k j : Fin 16) (h : Hold) :
    (s.putHold k h).hold.slots[j].hold = if k = j then some h else s.hold.slots[j].hold := set_get_hold _ _ _ _

theorem holdDefer_hold (s : State) (k j : Fin 16) (h : Hold) :
    (s.holdDefer k h).hold.slots[j].hold =
      if k = j then some (h.deferred (s.hold.lengthOf h.decision)) else s.hold.slots[j].hold := set_get_hold _ _ _ _

theorem holdImageWait_hold (s : State) (k j : Fin 16) (h : Hold) (g : Fin 16) :
    (s.holdImageWait k h g).hold.slots[j].hold =
      if k = j then some (h.waiting (s.hold.lengthOf h.decision)) else s.hold.slots[j].hold := set_get_hold _ _ _ _

theorem State.NoticesSound.holdImageWait (hs : s.NoticesSound) (hk : ∀ x ∈ s.hold.slots[k].hold, x.reason ≠ .defer) (g : Fin 16) :
    (s.holdImageWait k h g).NoticesSound :=
  (hs.putHold (h := h.waiting (s.hold.lengthOf h.decision)) fun x hx hr => absurd hr (hk x hx)).of_eq rfl rfl

/-- The first tag left in a headless chain held for DEFER: it stays as the head (R61). -/
theorem State.Flows.holdDefer_head (hs : s.Flows e) (he : e.headless = some w) (hl : e.leaving = none)
    (hk : s.hold.slots[k].hold = some h) (hr : h.reason = .order) (hw : s.chains[w] = h.req.tag :: rest) :
    (s.holdDefer k h).Flows { e with headless := none } := by
  have hlist := hs.listed
  rw [hl] at hlist
  have hcell := fun j => holdDefer_hold s k j h
  obtain ⟨hp, hc⟩ := hs.started_in_place (t := s.holdDefer k h) (g := h.deferred (s.hold.lengthOf h.decision)) he hk hw rfl rfl
    (by simp [Hold.deferred]) rfl rfl rfl hcell
  refine ⟨hp, hc, ?_, fun hn => (hs.notices hn).holdDefer fun x hx hd => ?_⟩
  · dsimp only
    rw [hl]
    exact hlist.held (h := h.deferred _) (State.not_waitsFor hk (by simp [hr])) (by simp [Hold.deferred]) rfl hcell
  · rw [Option.mem_unique hx hk, hr] at hd
    cases hd

/-- A wait list after one is replaced. -/
theorem setWaiting_get (m : ImageStore) (g j : Fin 16) (l : List (Fin 16)) :
    ((m.setWaiting g l).segments[j]).waiting = if g = j then l else m.segments[j].waiting := by
  simp only [ImageStore.setWaiting]
  rw [table_set_get]
  split <;> rfl

theorem setWaiting_isLoading (m : ImageStore) (g j : Fin 16) (l : List (Fin 16)) : (m.setWaiting g l).isLoading j = m.isLoading j := by
  rw [ImageStore.isLoading, ImageStore.isLoading, setWaiting_live]

/-- The first tag left in a headless chain put on the wait list of a LOADING segment: it stays as the head (R61). -/
theorem State.Flows.holdImageWait_head (hs : s.Flows e) (he : e.headless = some w) (hl : e.leaving = none)
    (hk : s.hold.slots[k].hold = some h) (hr : h.reason = .order) (hw : s.chains[w] = h.req.tag :: rest) {g : Fin 16}
    (hg : h.decision.ruling.segment = some g) (hload : s.image.isLoading g = true) :
    (s.holdImageWait k h g).Flows { e with headless := none } := by
  have hlist := hs.listed
  rw [hl] at hlist
  have hcell := fun j => holdImageWait_hold s k j h g
  obtain ⟨hp, hc⟩ := hs.started_in_place (t := s.holdImageWait k h g) (g := h.waiting (s.hold.lengthOf h.decision)) he hk hw rfl rfl
    (by simp [Hold.waiting]) rfl rfl rfl hcell
  refine ⟨hp, hc, ?_, fun hn => ?_⟩
  · dsimp only
    rw [hl]
    exact hlist.joined (h := h.waiting _) (t := s.holdImageWait k h g) (State.not_waitsFor hk (by simp [hr])) rfl hg hload
      (fun j => setWaiting_get _ _ _ _) (fun j => setWaiting_isLoading _ _ _ _) hcell
  · refine State.NoticesSound.holdImageWait (hs.notices hn) (fun x hx hd => ?_) g
    rw [Option.mem_unique hx hk, hr] at hd
    cases hd

end leaves

end Sys2Proof.Machine
end

section
/-! Chains that advance and wait lists that are worked through keep the laws of traffic (R36, R59 to R63, R126). -/

namespace Sys2Proof.Machine

variable {s : State} {e : Stage} {k : Fin 16} {h : Hold} {u : Fin 32} {w : Fin 24} {rest : List (Fin 32)}

/-- A slot that waits for no segment may be freed (R36). -/
theorem State.Flows.leaving (hs : s.Flows e) (hl : e.leaving = none) (hk : ∀ g, ¬ s.waitsFor k g) :
    s.Flows { e with leaving := some k } := by
  have hlist := hs.listed
  rw [hl] at hlist
  exact ⟨hs.placed, hs.chained, hlist.leaving hk, hs.notices⟩

/-! ### The cascade (R60 to R62) -/

/-- What serving gave, answered as the first tag left in a headless chain. -/
theorem State.Flows.answerServed_head (hs : s.Flows e) (he : e.headless = some w) (hl : e.leaving = some k)
    (hk : s.hold.slots[k].hold = some h) (hw : s.chains[w] = h.req.tag :: rest) (out : Option (List Byte)) :
    ((s.answerServed k h out).setChain w rest).Flows { e with leaving := none } := by
  cases out <;> exact hs.answerSlot_head he hl hk hw _ _ _

/-- A headless chain's first tag, by its decision: answered, it has left, and the chain is headless still; else it is the head (R61). -/
theorem State.Flows.startHead (hs : s.Flows e) (he : e.headless = some w) (hl : e.leaving = none)
    (hk : s.hold.slots[k].hold = some h) (hr : h.reason = .order) (hw : s.chains[w] = h.req.tag :: rest) :
    ((s.startHead k h).2 = true → ((s.startHead k h).1.setChain w rest).Flows e) ∧
    ((s.startHead k h).2 = false → (s.startHead k h).1.Flows { e with headless := none }) := by
  have hleave := hs.leaving hl (State.not_waitsFor hk (by simp [hr]))
  have hstage : { e with leaving := none } = e := by rw [← hl]
  cases hd : h.decision.ruling with
  | pass =>
    rw [startHead_pass hd]
    refine ⟨nofun, fun _ => ?_⟩
    have := hleave.forwardSlot_head (x := issueEntry h.req h.decision.downstream) he rfl hk hw rfl .passed
    rwa [← hl] at this
  | defer =>
    rw [startHead_defer hd]
    exact ⟨nofun, fun _ => hs.holdDefer_head he hl hk hr hw⟩
  | deny =>
    rw [startHead_deny hd]
    refine ⟨fun _ => ?_, nofun⟩
    rw [← hstage]
    exact hleave.answerSlot_head he rfl hk hw _ _ _
  | discard =>
    rw [startHead_discard hd]
    refine ⟨fun _ => ?_, nofun⟩
    rw [← hstage]
    exact hleave.answerSlot_head he rfl hk hw _ _ _
  | serve g p =>
    cases hload : s.image.isLoading g with
    | true =>
      rw [startHead_wait hd hload]
      exact ⟨nofun, fun _ => hs.holdImageWait_head he hl hk hr hw (by rw [hd]; rfl) hload⟩
    | false =>
      rw [startHead_serve hd hload]
      refine ⟨fun _ => ?_, nofun⟩
      obtain ⟨hhold, hchains, -⟩ := serve_fields s g p h.req
      rw [← hstage]
      exact (hleave.serve g p h.req).answerServed_head he rfl (by rw [hhold]; exact hk) (by rw [hchains]; exact hw) _

/-- The cascade over a headless chain's tags leaves the chain with a head, or empty (R60 to R62). -/
theorem State.Flows.cascade (he : e.headless = none) (hl : e.leaving = none) (l : List (Fin 32)) :
    ∀ s : State, (s.setChain w l).Flows { e with headless := some w } → (State.cascade w l s).Flows e := by
  have hstage : { e with headless := none } = e := by rw [← he]
  induction l with
  | nil =>
    intro s hs
    refine ⟨hs.placed, ?_, hs.listed, hs.notices⟩
    rw [he]
    refine ⟨hs.chained.nodup, hs.chained.member, fun v t ht => ?_, hs.chained.hold⟩
    have hne : w ≠ v := by
      rintro rfl
      rw [show State.cascade w [] s = s.setChain w [] from rfl, setChain_get, if_pos rfl] at ht
      cases ht
    exact (hs.chained.behind v t ht).trans (or_congr_left (by simpa using hne))
  | cons t rest ih =>
    intro s hs
    have hchain : (s.setChain w (t :: rest)).chains[w] = t :: rest := by rw [setChain_get, if_pos rfl]
    obtain ⟨k, h, hk, rfl, hr⟩ : (s.setChain w (t :: rest)).behind t :=
      (hs.chained.behind w t (by rw [hchain]; exact List.mem_cons_self)).mpr (.inl rfl)
    have hslot : (s.setChain w (h.req.tag :: rest)).slotOf h.req.tag = some (k, h) := hs.placed.slotOf_eq_some.mpr ⟨hk, rfl⟩
    obtain ⟨hgoes, hstops⟩ := hs.startHead rfl hl hk hr hchain
    rw [← cascade_setChain s w (h.req.tag :: rest), cascade_cons _ w k h rest hslot]
    have hset : (s.setChain w (h.req.tag :: rest)).startHead k h = ((s.startHead k h).1.setChain w (h.req.tag :: rest), (s.startHead k h).2) :=
      startHead_setChain s w _ k h
    split
    · rename_i hg
      exact ih _ (hgoes hg)
    · rename_i hg
      have hflow := hstops (by simpa using hg)
      rw [hset] at hflow ⊢
      rw [setChain_setChain]
      rw [← hstage]
      exact hflow

/-! ### Chains that advance (R59, R60) -/

theorem advance_of_chainedIn_none {x : Option TagEntry} (hx : chainedIn x = none) : s.advance u x = s := by
  unfold State.advance
  split
  · cases hx
  · rfl

theorem advance_of_chainedIn_some {x : Option TagEntry} (hx : chainedIn x = some w) (hw : s.chains[w] = u :: rest) :
    s.advance u x = s.cascade w rest := by
  obtain ⟨⟨p, win, m⟩, hy, hm, hwin⟩ := chainedIn_eq_some.mp hx
  dsimp only at hm hwin
  subst hm hwin
  rw [Option.mem_def.mp hy]
  exact advance_head p hw

/-- The advance of its chain is the last that a request's leaving does (R60). -/
theorem State.Erased.advance {x : Option TagEntry} (hs : s.Erased e u x) (he : e.headless = none) (hl : e.leaving = none) :
    (s.advance u x).Flows e := by
  cases hx : chainedIn x with
  | none =>
    rw [advance_of_chainedIn_none hx]
    exact hs.1 hx
  | some w =>
    obtain ⟨rest, hw, hflow⟩ := hs.2 w hx
    rw [advance_of_chainedIn_some hx hw]
    exact State.Flows.cascade he hl rest s hflow

theorem State.Erased.post {x : Option TagEntry} (hs : s.Erased e u x) {d : Detail} (hd : d.kind ≠ .hold) :
    (s.post d).Erased e u x := by
  refine ⟨fun hx => (hs.1 hx).post hd, fun w hx => ?_⟩
  obtain ⟨rest, hw, hflow⟩ := hs.2 w hx
  exact ⟨rest, hw, hflow.post hd⟩

/-- A hold that is not behind a head ended by answering it (R35, R72). -/
theorem State.Flows.endHold (hs : s.Flows e) (he : e.headless = none) (hl : e.leaving = some k) (hk : s.hold.slots[k].hold = some h)
    (hr : h.reason ≠ .order) (st : HostStatus) (d : List Byte) (o : LastOutcome) :
    (s.endHold k h st d o).Flows { e with leaving := none } :=
  (hs.answerSlot he hl hk hr st d o).advance he rfl

/-! ### Wait lists (R36, R126) -/

theorem leaveLists_waiting (m : ImageStore) (k g : Fin 16) :
    ((m.leaveLists k).segments[g]).waiting = m.segments[g].waiting.filter fun j => j ≠ k := by
  simp only [ImageStore.leaveLists]
  rw [tableMap_get]

theorem leaveLists_isLoading (m : ImageStore) (k g : Fin 16) : (m.leaveLists k).isLoading g = m.isLoading g := by
  have hlive : ((m.leaveLists k).segments[g]).live = m.segments[g].live := by
    simp only [ImageStore.leaveLists]
    rw [tableMap_get]
  rw [ImageStore.isLoading, ImageStore.isLoading, hlive]

/-- A slot that has left every wait list may be freed (R36). -/
theorem State.Flows.leaveLists (hs : s.Flows e) (hl : e.leaving = none) (k : Fin 16) :
    (s.setImage (s.image.leaveLists k)).Flows
      { e with working := e.working.map fun z => (z.1, z.2.filter fun j => j ≠ k), leaving := some k } := by
  have hlist := hs.listed
  rw [hl] at hlist
  exact ⟨⟨hs.placed.queue, hs.placed.place⟩, ⟨hs.chained.nodup, hs.chained.member, hs.chained.behind, hs.chained.hold⟩,
    hlist.left_lists rfl (leaveLists_waiting _ k) (leaveLists_isLoading _ k), fun hn => (hs.notices hn).of_eq rfl rfl⟩

/-- A waiting slot taken off its segment's list has left every list, for it is on no other (R109, R126). -/
theorem State.Listed.setWaiting_eq_leaveLists {x : Option (Fin 16 × List (Fin 16))} (hs : s.Listed x none) {g : Fin 16}
    (hk : k ∈ s.image.segments[g].waiting) :
    s.image.setWaiting g (s.image.segments[g].waiting.filter fun j => j ≠ k) = s.image.leaveLists k := by
  have hother : ∀ j : Fin 16, g ≠ j → (s.image.segments[j].waiting.filter fun i => i ≠ k) = s.image.segments[j].waiting := by
    intro j hj
    refine List.filter_eq_self.mpr fun i hi => ?_
    have hne : i ≠ k := by
      rintro rfl
      obtain ⟨⟨h, hh, -, hg⟩, -⟩ := (hs.waits g i).mp hk
      obtain ⟨⟨h', hh', -, hj'⟩, -⟩ := (hs.waits j i).mp hi
      rw [Option.mem_unique hh' hh, hg] at hj'
      exact hj (Option.some.inj hj')
    simpa using hne
  unfold ImageStore.setWaiting ImageStore.leaveLists
  congr 1
  refine table_ext fun j => ?_
  rw [table_set_get, tableMap_get]
  split
  · rename_i hj
    rw [hj]
  · rename_i hj
    rw [hother j hj]

theorem answerServed_advance_eq_endHold (s : State) (k : Fin 16) (h : Hold) (out : Option (List Byte)) :
    ∃ st d o, (s.answerServed k h out).advance h.req.tag s.host.tags[h.req.tag] = s.endHold k h st d o := by
  cases out with
  | none => exact ⟨.fault, [], .refused, rfl⟩
  | some d => exact ⟨.ok, d, .served, rfl⟩

/-- One member of a wait list worked through: it is off the list, and its request has been answered (R126). -/
theorem State.Flows.workMember {g : Fin 16} {l : List (Fin 16)} (he : e.headless = none) (hl : e.leaving = none)
    (hs : s.Flows { e with working := some (g, k :: l) }) : (State.workMember g s k).Flows { e with working := some (g, l) } := by
  have hlist := hs.listed
  dsimp only at hlist
  rw [hl] at hlist
  obtain ⟨hload, hwait⟩ := hlist.worked _ rfl
  dsimp only at hload hwait
  have hk : k ∈ s.image.segments[g].waiting := by rw [hwait]; exact List.mem_cons_self
  obtain ⟨⟨h, hh, hr, -⟩, -⟩ := (hlist.waits g k).mp hk
  have hfilter : (k :: l).filter (fun j => j ≠ k) = l := by
    have hnodup := hlist.nodup g
    rw [hwait, List.nodup_cons] at hnodup
    rw [List.filter_cons_of_neg (by simp), List.filter_eq_self]
    intro j hj
    have : j ≠ k := fun hjk => hnodup.1 (hjk ▸ hj)
    simpa using this
  have hleft := hs.leaveLists hl k
  simp only [Option.map_some, hfilter] at hleft
  have hends : ∀ t : State, t.Flows { e with working := some (g, l), leaving := some k } → t.hold.slots[k].hold = some h →
      ∀ st d o, (t.endHold k h st d o).Flows { e with working := some (g, l) } := by
    intro t ht hth st d o
    have := ht.endHold he rfl hth (by simp [hr]) st d o
    rwa [← hl] at this
  unfold State.workMember
  dsimp only
  rw [hlist.setWaiting_eq_leaveLists hk]
  split
  · rename_i hnone
    rw [State.setImage_hold, hh] at hnone
    cases hnone
  · rename_i h' hh'
    rw [State.setImage_hold, hh] at hh'
    obtain rfl := Option.some.inj hh'
    split
    · rename_i p _ _
      obtain ⟨st, d, o, heq⟩ := answerServed_advance_eq_endHold
        ((s.setImage (s.image.leaveLists k)).serve g p h.req).1 k h ((s.setImage (s.image.leaveLists k)).serve g p h.req).2
      obtain ⟨hhold, -⟩ := serve_fields (s.setImage (s.image.leaveLists k)) g p h.req
      rw [heq]
      exact hends _ (hleft.serve g p h.req) (by rw [hhold]; exact hh) st d o
    · exact hends _ hleft hh _ _ _

/-- A wait list worked through to its end (R126). -/
theorem State.Flows.workMembers {g : Fin 16} (he : e.headless = none) (hl : e.leaving = none) (l : List (Fin 16)) :
    ∀ s : State, s.Flows { e with working := some (g, l) } → (l.foldl (State.workMember g) s).Flows { e with working := some (g, []) } := by
  induction l with
  | nil => exact fun s hs => hs
  | cons k rest ih => exact fun s hs => ih _ (hs.workMember he hl)

variable {n : Prop}

theorem setLive_waiting (m : ImageStore) (g : Fin 16) {l : Option Live} (j : Fin 16) :
    ((m.setLive g l).segments[j]).waiting = m.segments[j].waiting := by
  simp only [ImageStore.setLive]
  rw [table_set_get]
  split
  · rename_i hj
    rw [hj]
  · rfl

/-- A segment's geometry replaced by one that is not LOADING: its waiters are to be worked through (R117, R126). -/
theorem State.Flows.setLive (hs : s.Flows (.settled n)) (g : Fin 16) {l : Option Live}
    (hl : ∀ x ∈ l, x.state ≠ .loading) :
    (s.setImage (s.image.setLive g l)).Flows
      { Stage.settled n with working := some (g, s.image.segments[g].waiting) } := by
  have hwait := setLive_waiting s.image g (l := l)
  have hload : ∀ j : Fin 16, g ≠ j → (s.image.setLive g l).isLoading j = s.image.isLoading j := by
    intro j hj
    rw [ImageStore.isLoading, setLive_live, if_neg hj]
    rfl
  obtain ⟨hp, hc, hlist, hn⟩ := hs
  refine ⟨⟨hp.queue, hp.place⟩, ⟨hc.nodup, hc.member, hc.behind, hc.hold⟩, ⟨fun j => ?_, fun j k => ?_, fun j hj => ?_, fun z hz => ?_⟩,
    fun h => (hn h).of_eq rfl rfl⟩
  · rw [State.setImage_image, hwait]
    exact hlist.nodup j
  · rw [State.setImage_image, hwait]
    exact hlist.waits j k
  · rw [State.setImage_image, hwait] at hj
    by_cases hg : g = j
    · subst hg
      exact .inr ⟨_, rfl⟩
    · rw [State.setImage_image, hload j hg]
      exact .inl ((hlist.loading j hj).resolve_right (by simp))
  · obtain rfl := Option.mem_some.mp hz
    refine ⟨isLoading_eq_false fun x hx => ?_, hwait g⟩
    rw [State.setImage_image, setLive_live, if_pos rfl] at hx
    exact hl x hx

/-- A segment that is not LOADING any more, its wait list worked through: nothing is left to do (R126). -/
theorem State.Flows.workThrough {g : Fin 16} {l : List (Fin 16)} (hs : s.Flows { Stage.settled n with working := some (g, l) }) :
    (s.workThrough g).Flows (.settled n) := by
  have hwait : s.image.segments[g].waiting = l := (hs.listed.worked _ rfl).2
  obtain ⟨hp, hc, hlist, hn⟩ := State.Flows.workMembers (e := .settled n) rfl rfl l s hs
  unfold State.workThrough
  rw [hwait]
  refine ⟨hp, hc, ⟨hlist.nodup, hlist.waits, fun j hj => ?_, nofun⟩, hn⟩
  rcases hlist.loading j hj with hload | ⟨m, hm⟩
  · exact .inl hload
  · cases hm
    exact absurd (hlist.worked _ rfl).2 hj

end Sys2Proof.Machine
end

section
/-! Admission keeps the laws of traffic: a request of a FREE tag enters one place, and its chain where its window is ordered (R31, R57, R58, R137 to
R148). -/

namespace Sys2Proof.Machine

open Claims

variable {s t : State} {n : Prop} {k : Fin 16} {x : Hold} {u : Fin 32} {w : Fin 24}

/-- A chain after a tag has joined its window's. -/
theorem joined_get (s : State) (w v : Fin 24) (u : Fin 32) :
    (joined s w u)[v] = if s.windows.active[w].ordered = true ∧ some w = some v then s.chains[v] ++ [u] else s.chains[v] := by
  by_cases ho : s.windows.active[w].ordered = true
  · rw [show joined s w u = s.chains.set w (s.chains[w] ++ [u]) from if_pos ho, table_set_get]
    by_cases hv : w = v
    · subst hv
      rw [if_pos rfl, if_pos ⟨ho, rfl⟩]
    · rw [if_neg hv, if_neg fun h => hv (Option.some.inj h.2)]
  · rw [show joined s w u = s.chains from if_neg ho, if_neg fun h => ho h.1]

theorem needsOrder_iff : s.needsOrder w = true ↔ s.windows.active[w].ordered = true ∧ s.chains[w] ≠ [] := by
  simp [State.needsOrder]

/-- A FREE slot waits for no segment, and is not held for DEFER. -/
theorem State.not_waitsFor_free (hk : s.hold.slots[k].hold = none) (g : Fin 16) : ¬ s.waitsFor k g := by
  rintro ⟨y, hy, -⟩
  rw [hk] at hy
  cases hy

/-- A request that is held where a slot is FREE: its tag's place and its chain (R31, R57, R58). -/
theorem State.Flows.entered_slot (hs : s.Flows (.settled n)) (hfree : s.host.tags[x.req.tag] = none)
    (hk : s.hold.slots[k].hold = none) (ho : x.reason = .order ↔ s.needsOrder x.decision.window = true)
    (hq : t.issue = s.issue) (hc : t.chains = joined s x.decision.window x.req.tag)
    (ht : t.host = busyTag s.host x.req.tag (.held k) (some x.decision.window) s.windows.active[x.decision.window].ordered)
    (hh : ∀ j : Fin 16, t.hold.slots[j].hold = if k = j then some x else s.hold.slots[j].hold) : t.Placed ∧ t.Chained none := by
  have htags := fun v : Fin 32 => table_set_get s.host.tags x.req.tag v
    (some { place := .held k, window := some x.decision.window, member := s.windows.active[x.decision.window].ordered })
  have hnone := hs.placed.free hfree
  refine ⟨hs.placed.enter_slot hfree hk rfl (by rw [hq]) (by rw [hq]) hh fun v => by rw [ht]; exact htags v,
    hs.chained.entered (e := { place := .held k, window := _, member := _ }) hfree ?_ (fun v => by rw [ht]; exact htags v)
      (fun v => by rw [hc]; exact joined_get _ _ _ _) (fun v => ?_) fun j g hg => ?_⟩
  · rintro ⟨j, g, hg, htag, -⟩
    exact hnone (.held j) ⟨g, hg, htag⟩
  · have hex : (∃ w : Fin 24, s.windows.active[x.decision.window].ordered = true ∧ some x.decision.window = some w ∧ s.chains[w] ≠ []) ↔
        x.reason = .order := by
      rw [ho, needsOrder_iff]
      constructor
      · rintro ⟨w, hord, hw, hne⟩
        exact ⟨hord, Option.some.inj hw ▸ hne⟩
      · rintro ⟨hord, hne⟩
        exact ⟨_, hord, rfl, hne⟩
    rw [hex]
    constructor
    · rintro ⟨j, g, hg, rfl, hr⟩
      rw [Option.mem_def, hh] at hg
      split at hg
      · obtain rfl := Option.some.inj hg
        exact .inr ⟨rfl, hr⟩
      · exact .inl ⟨j, g, hg, rfl, hr⟩
    · rintro (⟨j, g, hg, rfl, hr⟩ | ⟨rfl, hr⟩)
      · refine ⟨j, g, ?_, rfl, hr⟩
        rw [Option.mem_def, hh, if_neg]
        · exact hg
        · rintro rfl
          rw [hk] at hg
          cases hg
      · exact ⟨k, x, by rw [Option.mem_def, hh, if_pos rfl], rfl, hr⟩
  · rw [hh] at hg
    split at hg
    · obtain rfl := Option.some.inj hg
      exact .inr ⟨rfl, rfl, fun hr => (needsOrder_iff.mp (ho.mp hr)).1⟩
    · exact .inl ⟨hg, fun htag => hnone (.held j) ⟨g, hg, htag⟩⟩

/-- A request put into the issue queue at its admission (R57, R143, R155). -/
theorem State.Flows.entered_queue (hs : s.Flows (.settled n)) {i : IssueEntry} {y : TagEntry} (hfree : s.host.tags[i.tag] = none)
    (hy : y.place = .queued) (hempty : ∀ w : Fin 24, y.member = true → y.window = some w → s.chains[w] = [])
    (hq : t.issue.queue = s.issue.queue ++ [i]) (hf : t.issue.forward = s.issue.forward) (hh : t.hold.slots = s.hold.slots)
    (hc : ∀ v : Fin 24, t.chains[v] = if y.member = true ∧ y.window = some v then s.chains[v] ++ [i.tag] else s.chains[v])
    (ht : ∀ v : Fin 32, t.host.tags[v] = if i.tag = v then some y else s.host.tags[v]) : t.Placed ∧ t.Chained none := by
  have hnone := hs.placed.free hfree
  have hnot : ∀ (j : Fin 16) (g : Hold), s.hold.slots[j].hold = some g → g.req.tag ≠ i.tag := fun j g hg htag =>
    hnone (.held j) ⟨g, hg, htag⟩
  refine ⟨hs.placed.enter_queue hfree hy hq hf hh ht, hs.chained.entered hfree ?_ ht hc (fun v => ?_) fun j g hg => ?_⟩
  · rintro ⟨j, g, hg, htag, -⟩
    exact hnot j g hg htag
  · have hb : t.behind v ↔ s.behind v := by rw [State.behind, State.behind, hh]
    rw [hb, or_iff_left]
    rintro ⟨-, w, hm, hw, hne⟩
    exact hne (hempty w hm hw)
  · rw [hh] at hg
    exact .inl ⟨hg, hnot j g hg⟩

/-- A request accepted into a FREE slot, with what its hold does to wait lists and notices (R31, R143). -/
theorem State.Flows.enter_held (hs : s.Flows (.settled n)) (hfree : s.host.tags[x.req.tag] = none)
    (hk : s.hold.slots[k].hold = none) (ho : x.reason = .order ↔ s.needsOrder x.decision.window = true)
    (hq : t.issue = s.issue) (hc : t.chains = s.chains) (ht : t.host = s.host) (hw : t.windows = s.windows)
    (hh : ∀ j : Fin 16, t.hold.slots[j].hold = if k = j then some x else s.hold.slots[j].hold) (hl : t.Listed none none)
    (hn : n → t.NoticesSound) : (t.enter x.req.tag x.decision.window (.held k)).Flows (.settled n) := by
  obtain ⟨hp, hchain⟩ := hs.entered_slot (t := t.enter x.req.tag x.decision.window (.held k)) hfree hk ho
    (by rw [enter_eq]; exact hq) (by rw [enter_eq]; simp only [joined, hw, hc]) (by rw [enter_eq]; simp only [ht, hw])
    (by rw [enter_eq]; exact hh)
  rw [enter_eq] at hp hchain ⊢
  exact ⟨hp, hchain, ⟨hl.nodup, hl.waits, hl.loading, hl.worked⟩, fun h => (hn h).of_eq rfl rfl⟩

section held

variable {r : HostRequest} {d : Decision} (hs : s.Flows (.settled n)) (hfree : s.host.tags[r.tag] = none)
  (hk : s.hold.slots[k].hold = none)

include hs hfree hk

/-- A request held behind its chain's head (R58). -/
theorem State.Flows.enter_order (ho : s.needsOrder d.window = true) :
    ((s.putHold k (Hold.start r d)).enter r.tag d.window (.held k)).Flows (.settled n) :=
  hs.enter_held (x := Hold.start r d) (t := s.putHold k (Hold.start r d)) hfree hk (iff_of_true rfl ho) rfl rfl rfl rfl
    (fun j => putHold_hold s k j _)
    (hs.listed.held (h := Hold.start r d) (State.not_waitsFor_free hk) (by simp [Hold.start]) rfl fun j => putHold_hold s k j _)
    fun h => State.NoticesSound.putHold (hs.notices h) fun y hy => by rw [hk] at hy; cases hy

/-- A request held for DEFER (R47, R143). -/
theorem State.Flows.enter_defer (ho : s.needsOrder d.window = false) :
    ((s.holdDefer k (Hold.start r d)).enter r.tag d.window (.held k)).Flows (.settled n) :=
  hs.enter_held (x := (Hold.start r d).deferred (s.hold.lengthOf d)) (t := s.holdDefer k (Hold.start r d)) hfree hk
    (iff_of_false (by simp [Hold.deferred]) (Bool.eq_false_iff.mp ho)) rfl rfl rfl rfl (fun j => holdDefer_hold s k j _)
    (hs.listed.held (h := (Hold.start r d).deferred _) (State.not_waitsFor_free hk) (by simp [Hold.deferred]) rfl
      fun j => holdDefer_hold s k j _)
    fun h => State.NoticesSound.holdDefer (hs.notices h) fun y hy => by rw [hk] at hy; cases hy

/-- A request held for IMAGE_WAIT (R124, R143). -/
theorem State.Flows.enter_wait (ho : s.needsOrder d.window = false) {g : Fin 16} (hg : d.ruling.segment = some g)
    (hl : s.image.isLoading g = true) :
    ((s.holdImageWait k (Hold.start r d) g).enter r.tag d.window (.held k)).Flows (.settled n) :=
  hs.enter_held (x := (Hold.start r d).waiting (s.hold.lengthOf d)) (t := s.holdImageWait k (Hold.start r d) g) hfree hk
    (iff_of_false (by simp [Hold.waiting]) (Bool.eq_false_iff.mp ho)) rfl rfl rfl rfl (fun j => holdImageWait_hold s k j _ g)
    (hs.listed.joined (h := (Hold.start r d).waiting _) (t := s.holdImageWait k (Hold.start r d) g) (State.not_waitsFor_free hk) rfl
      hg hl (fun _ => setWaiting_get _ _ _ _) (fun _ => setWaiting_isLoading _ _ _ _) fun j => holdImageWait_hold s k j _ g)
    fun h => State.NoticesSound.holdImageWait (hs.notices h) (fun y hy => by rw [hk] at hy; cases hy) g

end held

/-- A request accepted to a window's PASS (R143). -/
theorem State.Flows.enter_pass (hs : s.Flows (.settled n)) {r : HostRequest} {d : Decision} (hfree : s.host.tags[r.tag] = none)
    (ho : s.needsOrder d.window = false) :
    ((s.enqueue (issueEntry r d.downstream)).enter r.tag d.window .queued).Flows (.settled n) := by
  have hempty : ∀ w : Fin 24, s.windows.active[d.window].ordered = true → some d.window = some w → s.chains[w] = [] := by
    rintro w hord hw
    obtain rfl := Option.some.inj hw
    by_contra hne
    rw [needsOrder_iff.mpr ⟨hord, hne⟩] at ho
    cases ho
  rw [enter_eq]
  obtain ⟨hp, hc⟩ := hs.entered_queue (i := issueEntry r d.downstream)
    (y := { place := .queued, window := some d.window, member := s.windows.active[d.window].ordered })
    (t := { s.enqueue (issueEntry r d.downstream) with
      host := busyTag s.host r.tag .queued (some d.window) s.windows.active[d.window].ordered
      chains := joined s d.window r.tag })
    hfree rfl hempty rfl rfl rfl (fun v => joined_get _ _ _ _) fun v => table_set_get _ _ _ _
  exact ⟨hp, hc, ⟨hs.listed.nodup, hs.listed.waits, hs.listed.loading, hs.listed.worked⟩, fun h => (hs.notices h).of_eq rfl rfl⟩

/-- A request accepted to a window, in its place and its chain, or answered (R57, R58, R143). -/
theorem State.Flows.dispatch (hs : s.Flows (.settled n)) {r : HostRequest} {d : Decision} {slot : Option (Fin 16)}
    (hfree : s.host.tags[r.tag] = none) (hslot : ∀ k ∈ slot, s.hold.slots[k].hold = none) :
    (s.dispatch r d slot).Flows (.settled n) := by
  unfold State.dispatch
  split
  · rename_i k hn
    exact hs.enter_order hfree (hslot k rfl) hn
  · rename_i k hn _
    exact hs.enter_defer hfree (hslot k rfl) hn
  · rename_i hn _
    exact hs.enter_pass hfree hn
  · exact hs.respond _ _ _
  · exact hs.respond _ _ _
  · rename_i g p hn hr
    split
    · rename_i hl
      split
      · rename_i k
        exact hs.enter_wait hfree (hslot k rfl) hn (by rw [hr]; rfl) hl
      · exact hs
    · dsimp only
      split <;> exact (hs.serve g p r).respond _ _ _
  · exact hs

/-- A request accepted to the default record (R2, R143). -/
theorem State.Flows.dispatchDefault (hs : s.Flows (.settled n)) {r : HostRequest} (hfree : s.host.tags[r.tag] = none) :
    (s.dispatchDefault r).Flows (.settled n) := by
  unfold State.dispatchDefault
  split
  · obtain ⟨hp, hc⟩ := hs.entered_queue (i := issueEntry r r.addr) (y := { place := .queued, window := none, member := false })
      (t := (s.enqueue (issueEntry r r.addr)).setTag r.tag (some { place := .queued, window := none, member := false }))
      hfree rfl nofun rfl rfl rfl (fun v => by simp; rfl) fun v => table_set_get _ _ _ _
    exact ⟨hp, hc, ⟨hs.listed.nodup, hs.listed.waits, hs.listed.loading, hs.listed.worked⟩, fun h => (hs.notices h).of_eq rfl rfl⟩
  · exact hs.respond _ _ _
  · exact hs.respond _ _ _

theorem State.Flows.openLink {e : Stage} (hs : s.Flows e) : s.openLink.Flows e :=
  hs.frame ⟨rfl, rfl, rfl, fun _ => rfl, rfl, fun _ => rfl, fun _ => rfl⟩ rfl rfl

theorem State.Flows.countAccepted {e : Stage} (hs : s.Flows e) (w : Fin 24) (o : Op) : (s.countAccepted w o).Flows e := by
  have hcount : (s.setWindows ((s.windows.countTrip w).countMatch w o)).Flows e :=
    hs.frame ⟨rfl, rfl, rfl, fun _ => rfl, rfl, fun _ => rfl, fun _ => rfl⟩ rfl rfl
  unfold State.countAccepted
  dsimp only
  split
  · exact hcount.post (by simp [Detail.kind])
  · exact hcount

theorem State.Flows.stall {e : Stage} (hs : s.Flows e) (r : HostRequest) (w : Fin 24) : (s.stall r w).Flows e := by
  have hset : (s.setHost { s.host with stalled := some r }).Flows e :=
    hs.frame ⟨rfl, rfl, rfl, fun _ => rfl, rfl, fun _ => rfl, fun _ => rfl⟩ rfl rfl
  exact hset.post (by simp [Detail.kind])

/-- An offered request, through the five checks (R138). -/
theorem State.Flows.evaluate (hs : s.Flows (.settled n)) (b : Bool) (r : HostRequest) : (s.evaluate b r).Flows (.settled n) := by
  by_cases htag : s.host.tags[r.tag].isSome = true
  · rw [evaluate_clash htag]
    exact hs.openLink.post (by simp [Detail.kind])
  · have hfree : s.host.tags[r.tag] = none := by simpa using htag
    cases hm : malformed r with
    | true =>
      rw [evaluate_malformed hfree hm]
      exact (hs.openLink.post (by simp [Detail.kind])).respond _ _ _
    | false =>
      cases hstr : s.windows.straddles (s.windows.matched r.addr) r.addr r.len.toNat with
      | true =>
        rw [evaluate_straddle hfree hm hstr]
        exact (hs.openLink.post (by simp [Detail.kind])).respond _ _ _
      | false =>
        cases hw : s.windows.matched r.addr with
        | none =>
          rw [hw] at hstr
          rw [evaluate_default hfree hm hw hstr]
          exact hs.openLink.dispatchDefault hfree
        | some w =>
          rw [hw] at hstr
          rw [evaluate_window hfree hm hw hstr]
          split
          · split
            · exact hs
            · exact hs.stall r w
          · refine (hs.openLink.countAccepted w r.op).dispatch (by rw [countAccepted_host]; exact hfree) fun k hk => ?_
            rw [countAccepted_hold]
            exact (lowestFree_eq_some.mp (Option.mem_def.mp hk)).1

/-- The freeing that an event reports when it ends (R32, R148). -/
theorem State.Flows.reportFreeing (hs : s.Flows (.settled n)) (b : State) : (s.reportFreeing b).Flows (.settled n) := by
  unfold State.reportFreeing
  split
  · split
    · exact hs.evaluate true _
    · exact hs
  · exact hs

end Sys2Proof.Machine
end

section
/-! Every command keeps the laws of traffic, from one settled state to the next (R31, R36, R54, R55, R109, R137). -/

namespace Sys2Proof.Machine

variable {s t : State} {n : Prop} {e : Stage} {k : Fin 16} {h : Hold}

/-! ### Updates of one block that holds no traffic -/

theorem State.Flows.setWindows (hs : s.Flows e) (x : WindowTable) : (s.setWindows x).Flows e :=
  hs.frame ⟨rfl, rfl, rfl, fun _ => rfl, rfl, fun _ => rfl, fun _ => rfl⟩ rfl rfl

theorem State.Flows.setPort (hs : s.Flows e) (x : ServicePort) : (s.setPort x).Flows e :=
  hs.frame ⟨rfl, rfl, rfl, fun _ => rfl, rfl, fun _ => rfl, fun _ => rfl⟩ rfl rfl

theorem State.Flows.setPending (hs : s.Flows e) (x : List Instr) : (s.setPending x).Flows e :=
  hs.frame ⟨rfl, rfl, rfl, fun _ => rfl, rfl, fun _ => rfl, fun _ => rfl⟩ rfl rfl

theorem State.Flows.setTimeouts (hs : s.Flows e) (x : Vector Nat 4) : (s.setHold { s.hold with timeouts := x }).Flows e :=
  hs.frame ⟨rfl, rfl, rfl, fun _ => rfl, rfl, fun _ => rfl, fun _ => rfl⟩ rfl rfl

/-- A queue that stays lawful and names no other slot. -/
theorem State.Flows.setNotices (hs : s.Flows e) {q : NoticeQueue} (hq : s.notices.Lawful → q.Lawful)
    (hsub : q.names.Sublist s.notices.names) : (s.setNotices q).Flows e :=
  (sameTraffic_setNotices q).flows hs fun he => (hs.notices he).setNotices (hq (hs.notices he).1) hsub

/-- A segment LOADING, whatever it was: a wait list needs no more of it (R112, R113). -/
theorem State.Flows.setLoading (hs : s.Flows (.settled n)) (g : Fin 16) {x : Live} (hx : x.state = .loading) (b : List Host.Cell) :
    (s.setImage { s.image.setLive g (some x) with bytes := b }).Flows (.settled n) := by
  have hwait := setLive_waiting s.image g (l := some x)
  obtain ⟨hp, hc, hlist, hn⟩ := hs
  refine ⟨⟨hp.queue, hp.place⟩, ⟨hc.nodup, hc.member, hc.behind, hc.hold⟩, ⟨fun j => ?_, fun j k => ?_, fun j hj => ?_, nofun⟩,
    fun h => (hn h).of_eq rfl rfl⟩
  · exact (hwait j).symm ▸ hlist.nodup j
  · exact (hwait j).symm ▸ hlist.waits j k
  · left
    change (s.image.setLive g (some x)).isLoading j = true
    rw [ImageStore.isLoading, setLive_live]
    split
    · simp [hx]
    · exact (hlist.loading j fun he => hj ((hwait j).trans he)).resolve_right (by simp)

/-! ### Windows and timeouts (R18 to R26, R40) -/

section bodies

variable (p : List Byte) (hs : s.Flows (.settled n))

include hs

theorem State.Flows.wsetBody : (wsetBody p s).after.Flows (.settled n) := by
  unfold Machine.wsetBody
  split
  · exact hs
  · split
    · split
      · exact hs
      · exact hs.setWindows _
    · exact hs

theorem State.Flows.wclearBody : (wclearBody p s).after.Flows (.settled n) := by
  unfold Machine.wclearBody
  split
  · split
    · exact hs.setWindows _
    · exact hs
  · exact hs

theorem State.Flows.wdefaultBody : (wdefaultBody p s).after.Flows (.settled n) := by
  unfold Machine.wdefaultBody
  split
  · split
    · exact hs.setWindows _
    · exact hs
  · exact hs

theorem State.Flows.wzeroBody : (wzeroBody p s).after.Flows (.settled n) := by
  unfold Machine.wzeroBody
  split
  · split
    · exact hs.setWindows _
    · split
      · exact hs.setWindows _
      · exact hs
  · exact hs

theorem State.Flows.tsetBody : (tsetBody p s).after.Flows (.settled n) := by
  unfold Machine.tsetBody
  split
  · split
    · split
      · exact hs
      · exact hs.setTimeouts _
    · exact hs
  · exact hs

/-! ### Decisions (R68 to R79) -/

/-- A decision command leaves what its function leaves for a current hold of reason DEFER, and otherwise the state. -/
theorem State.Flows.withDefer (slot use : Byte) {f : Fin 16 → Hold → Answer}
    (hf : ∀ k h, s.hold.slots[k].hold = some h → h.reason = .defer → (f k h).after.Flows (.settled n)) :
    (s.withDefer slot use f).after.Flows (.settled n) := by
  unfold State.withDefer State.withCurrent
  split
  · exact hs
  · dsimp only
    split
    · rename_i h hk
      split
      · split
        · rename_i hr
          exact hf _ h hk hr
        · exact hs
      · exact hs
    · exact hs

/-- A request held for DEFER answered by a decision (R35, R72). -/
theorem State.Flows.decided_answer (hk : s.hold.slots[k].hold = some h) (hr : h.reason = .defer) (st : HostStatus) (d : List Byte)
    (o : LastOutcome) : (s.decided (s.endHold k h st d o)).after.Flows (.settled n) :=
  ((hs.leaving rfl (State.not_waitsFor hk (by simp [hr]))).endHold rfl rfl hk (by simp [hr]) st d o).reportFreeing s

/-- A request held for DEFER forwarded by a decision (R35, R77). -/
theorem State.Flows.decided_forward (hk : s.hold.slots[k].hold = some h) (hr : h.reason = .defer) (x : FwdParts) :
    (s.decided (s.forwardSlot k h (x.entry h) .forwarded)).after.Flows (.settled n) :=
  ((hs.leaving rfl (State.not_waitsFor hk (by simp [hr]))).forwardSlot rfl hk (by simp [hr]) rfl .forwarded).reportFreeing s

theorem State.Flows.hdataBody : (hdataBody p s).after.Flows (.settled n) := by
  unfold Machine.hdataBody
  split
  · split
    · exact hs
    · refine hs.withDefer _ _ fun k h hk hr => ?_
      split
      · exact hs
      · split
        · exact hs
        · exact hs.decided_answer hk hr _ _ _
  · exact hs

theorem State.Flows.hdoneBody : (hdoneBody p s).after.Flows (.settled n) := by
  unfold Machine.hdoneBody
  split
  · split
    · exact hs
    · refine hs.withDefer _ _ fun k h hk hr => ?_
      split
      · exact hs
      · split
        · exact hs
        · exact hs.decided_answer hk hr _ _ _
  · exact hs

theorem State.Flows.hfwdBody : (hfwdBody p s).after.Flows (.settled n) := by
  unfold Machine.hfwdBody
  split
  · split
    · exact hs
    · refine hs.withDefer _ _ fun k h hk hr => ?_
      split
      · exact hs
      · split
        · exact hs
        · exact iteInduction (motive := fun a : Answer => a.after.Flows (.settled n)) (fun _ => hs) fun _ => hs.decided_forward hk hr _
  · exact hs

theorem State.Flows.hrefuseBody : (hrefuseBody p s).after.Flows (.settled n) := by
  unfold Machine.hrefuseBody
  split
  · refine hs.withDefer _ _ fun k h hk hr => ?_
    split
    · exact hs.decided_answer hk hr _ _ _
    · split
      · exact hs.decided_answer hk hr _ _ _
      · exact hs
  · exact hs

theorem State.Flows.hrenewBody : (hrenewBody p s).after.Flows (.settled n) := by
  unfold Machine.hrenewBody
  split
  · refine hs.withDefer _ _ fun k h hk hr => ?_
    dsimp only
    split
    · exact hs
    · exact hs.putHold_same hk rfl
  · exact hs

/-! ### Notices (R95 to R98) -/

omit hs in
theorem State.Flows.markHold (hs : s.Flows e) (d : Detail) (x : NoticeState) : (s.markHold d x).Flows e := by
  unfold State.markHold
  split
  · split
    · rename_i hk
      split
      · exact hs.putHold_same hk rfl
      · exact hs
    · exact hs
  · exact hs

theorem State.Flows.nfetchBody : (nfetchBody p s).after.Flows (.settled n) := by
  unfold Machine.nfetchBody
  split
  · exact hs
  · split
    · exact hs
    · rename_i he
      dsimp only
      split
      · exact hs
      · refine (hs.setNotices (q := { s.notices with presented := true }) (fun hq => NoticeQueue.present_lawful hq (by simp [he])) ?_).markHold _ _
        exact (NoticeQueue.unpresented_tail_sublist s.notices).filterMap _

theorem State.Flows.nackBody : (nackBody p s).after.Flows (.settled n) := by
  unfold Machine.nackBody
  split
  · split
    · split
      · refine (hs.setNotices NoticeQueue.removeHead_lawful ?_).markHold _ _
        exact (NoticeQueue.unpresented_tail_sublist s.notices).filterMap _
      · exact hs
    · exact hs
  · exact hs

/-! ### Images (R111 to R119) -/

theorem State.Flows.sloadBody : (sloadBody p s).after.Flows (.settled n) := by
  unfold Machine.sloadBody
  split
  · split
    · exact hs
    · dsimp only
      split
      · exact hs
      · split
        · split
          · exact hs
          · split
            · exact hs.setLoading _ rfl s.image.bytes
            · exact hs
        · split
          · exact hs
          · exact hs.setLoading _ rfl s.image.bytes
  · exact hs

theorem State.Flows.sdataBody : (sdataBody p s).after.Flows (.settled n) := by
  unfold Machine.sdataBody
  split
  · rename_i data
    split
    · exact hs
    · split
      · exact hs
      · dsimp only
        split
        · exact hs
        · split
          · exact hs
          · rename_i l _
            split
            · exact hs
            · rename_i hl
              split
              · exact hs
              · split
                · exact hs
                · exact hs.setLoading _ (x := { l with cursor := l.cursor + data.length }) (not_not.mp hl) _
  · exact hs

theorem State.Flows.sabortBody : (sabortBody p s).after.Flows (.settled n) := by
  unfold Machine.sabortBody
  split
  · split
    · exact hs
    · rename_i g _
      split
      · exact hs
      · rename_i l _
        split
        · exact hs
        · have hfailed := hs.setLive g (l := some { l with state := .failed }) (by simp)
          exact ((hfailed.post (d := .imageFault g .aborted) (by simp [Detail.kind])).workThrough).reportFreeing s
  · exact hs

theorem State.Flows.sfreeBody : (sfreeBody p s).after.Flows (.settled n) := by
  unfold Machine.sfreeBody
  split
  · split
    · exact hs
    · rename_i g _
      split
      · exact hs
      · split
        · exact hs
        · have hempty := hs.setLive g (l := none) (by simp)
          dsimp only
          split
          · exact hempty.workThrough.reportFreeing s
          · exact ((hempty.post (d := .imageFault g .freed) (by simp [Detail.kind])).workThrough).reportFreeing s
  · exact hs

end bodies

/-! ### Frames (R169 to R184) -/

theorem State.Flows.makeReady (hs : s.Flows e) (code q : Byte) (r : Result) (d : List Byte) : (s.makeReady code q r d).Flows e :=
  hs.setPort _

/-- An immediate command leaves what its body leaves, with another port. -/
theorem State.Flows.immediately {f : State → Answer} (hf : (f s).after.Flows e) (c : Command) (q : Byte) :
    (s.immediately c q f).Flows e := hf.makeReady _ _ _ _

theorem State.Flows.takeFrame {f : State → State} (hs : s.Flows e) (m : Nat) (hf : ∀ t : State, t.Flows e → (f t).Flows e) :
    (s.takeFrame m f).Flows e := by
  have hout : (s.shiftOut (List.replicate m 0)).Flows e := hs.setPort _
  unfold State.takeFrame
  dsimp only
  split
  · exact hout.setPort _
  · exact hf _ (hout.setPort _)
  · exact hf _ hout

theorem State.Flows.takeScheck (hs : s.Flows e) (q : Byte) (p : List Byte) : (takeScheck q p s).Flows e := by
  unfold Machine.takeScheck
  dsimp only
  split
  · split
    · exact hs.makeReady _ _ _ _
    · split
      · exact hs.makeReady _ _ _ _
      · split_ifs
        · exact hs.makeReady _ _ _ _
        · exact hs.makeReady _ _ _ _
        · exact hs.setPort _
  · exact hs.makeReady _ _ _ _

theorem State.Flows.takeCommit (hs : s.Flows e) (q : Byte) (p : List Byte) : (takeCommit q p s).Flows e := by
  unfold Machine.takeCommit
  split
  · exact hs.setPort _
  · exact hs.makeReady _ _ _ _

theorem State.Flows.takeClearall (hs : s.Flows e) (q : Byte) (p : List Byte) : (takeClearall q p s).Flows e := by
  unfold Machine.takeClearall
  split
  · exact hs.setPort _
  · exact hs.makeReady _ _ _ _

/-- Every command that a frame can be (R176). -/
theorem State.Flows.takeCommand (hs : s.Flows (.settled n)) (c : Command) (q : Byte) (p : List Byte) :
    (takeCommand c q p s).Flows (.settled n) := by
  cases c with
  | wset => exact State.Flows.immediately (hs.wsetBody p) _ q
  | wclear => exact State.Flows.immediately (hs.wclearBody p) _ q
  | wdefault => exact State.Flows.immediately (hs.wdefaultBody p) _ q
  | wread => exact State.Flows.immediately ((wreadBody_after p s).symm ▸ hs) _ q
  | commit => exact hs.takeCommit q p
  | wstats => exact State.Flows.immediately ((wstatsBody_after p s).symm ▸ hs) _ q
  | wzero => exact State.Flows.immediately (hs.wzeroBody p) _ q
  | tset => exact State.Flows.immediately (hs.tsetBody p) _ q
  | hread => exact State.Flows.immediately ((hreadBody_after p s).symm ▸ hs) _ q
  | hdata => exact State.Flows.immediately (hs.hdataBody p) _ q
  | hdone => exact State.Flows.immediately (hs.hdoneBody p) _ q
  | hfwd => exact State.Flows.immediately (hs.hfwdBody p) _ q
  | hrefuse => exact State.Flows.immediately (hs.hrefuseBody p) _ q
  | hrenew => exact State.Flows.immediately (hs.hrenewBody p) _ q
  | nfetch => exact State.Flows.immediately (hs.nfetchBody p) _ q
  | nack => exact State.Flows.immediately (hs.nackBody p) _ q
  | sload => exact State.Flows.immediately (hs.sloadBody p) _ q
  | sdata => exact State.Flows.immediately (hs.sdataBody p) _ q
  | scheck => exact hs.takeScheck q p
  | sabort => exact State.Flows.immediately (hs.sabortBody p) _ q
  | sfree => exact State.Flows.immediately (hs.sfreeBody p) _ q
  | sread => exact State.Flows.immediately ((sreadBody_after p s).symm ▸ hs) _ q
  | sinfo => exact State.Flows.immediately ((sinfoBody_after p s).symm ▸ hs) _ q
  | status => exact State.Flows.immediately ((statusBody_after p s).symm ▸ hs) _ q
  | clearall => exact hs.takeClearall q p

theorem State.Flows.takePoll (hs : s.Flows e) (b : List Byte) : (takePoll b s).Flows e := by
  unfold Machine.takePoll
  dsimp only
  split
  · exact hs.setPort _
  · exact hs.setPort _
  · exact (hs.setPort _).setPort _

theorem State.Flows.takeRaw (hs : s.Flows (.settled n)) (b : List Byte) (cut : Bool) : (takeRaw b cut s).Flows (.settled n) := by
  unfold Machine.takeRaw
  split
  · exact hs
  · split
    · exact hs.takePoll _
    · refine hs.takeFrame _ fun t ht => ?_
      unfold handleRaw
      dsimp only
      split
      · exact ht.makeReady _ _ _ _
      · split
        · exact ht.makeReady _ _ _ _
        · exact ht.takeCommand _ _ _

end Sys2Proof.Machine
end

section
/-! Every event keeps the laws of traffic, and so does every step (R31, R36, R54, R55, R109, R137). -/

namespace Sys2Proof.Machine

variable {s t : State} {n : Prop} {e : Stage} {k : Fin 16} {h : Hold} {u : Fin 32}

/-! ### The memory link (R156 to R164) -/

theorem offer_eq_some {i : IssueUnit} {x : IssueEntry} {m : Fin 16} (h : i.offer = some (x, m)) :
    (∃ rest, i.queue = x :: rest) ∧ i.forward[m] = .free := by
  unfold IssueUnit.offer at h
  split at h
  · rename_i y rest m' hq hm
    cases h
    exact ⟨⟨rest, hq⟩, by simpa using (lowest_eq_some.mp hm).1⟩
  · cases h

/-- The offer accepted: the head of the issue queue is in the forward table (R157). -/
theorem State.Flows.grantOffer (hs : s.Flows e) : (grantOffer s).Flows e := by
  unfold Machine.grantOffer
  split
  · exact hs
  · rename_i x m ho
    obtain ⟨⟨rest, hq⟩, hm⟩ := offer_eq_some ho
    have htags := table_set_get s.host.tags x.tag
    obtain ⟨hp, hc, hl, hn⟩ := hs
    refine ⟨hp.granted hq hm (congrArg (List.drop 1) hq) (table_set_get _ _ · _) rfl (htags · _),
      hc.of_kept rfl (fun v => ?_) (fun j g hg => ⟨j, g, hg, rfl, rfl, id⟩) (fun v => Iff.rfl),
      ⟨hl.nodup, hl.waits, hl.loading, hl.worked⟩, fun h => (hn h).of_eq rfl rfl⟩
    refine (congrArg _ (htags v _)).trans ?_
    split
    · rename_i hv
      subst hv
      rw [Option.map_map]
      rfl
    · rfl

/-- A memory tag that no request had is FREE (R163). -/
theorem State.Flows.freeMemTag (hs : s.Flows e) {m : Fin 16} (hm : s.issue.forward[m].busyTag = none) : (s.freeMemTag m).Flows e := by
  have hrec : ∀ (v : Fin 32) (p : TagPlace), (s.freeMemTag m).recorded v p ↔ s.recorded v p := by
    intro v p
    cases p with
    | queued => rfl
    | held j => rfl
    | forwarded j =>
      have hget : (s.freeMemTag m).issue.forward[j] = if m = j then .free else s.issue.forward[j] := table_set_get _ _ _ _
      rw [State.recorded, State.recorded, hget]
      split
      · rename_i hj
        subst hj
        rw [hm]
        rfl
      · rfl
  obtain ⟨hp, hc, hl, hn⟩ := hs
  exact ⟨hp.of_recorded rfl rfl hrec, ⟨hc.nodup, hc.member, hc.behind, hc.hold⟩, ⟨hl.nodup, hl.waits, hl.loading, hl.worked⟩,
    fun h => (hn h).of_eq rfl rfl⟩

/-- A request that has returned from the memory link has left all but its chain (R161). -/
theorem State.Flows.returned (hs : s.Flows (.settled n)) {m : Fin 16} (hm : s.issue.forward[m].busyTag = some u) :
    ((s.freeMemTag m).setTag u none).Erased (.settled n) u s.host.tags[u] := by
  have hrec : s.recorded u (.forwarded m) := hm
  have htags : ∀ v : Fin 32, ((s.freeMemTag m).setTag u none).host.tags[v] = if u = v then none else s.host.tags[v] := fun v =>
    table_set_get _ _ _ _
  refine hs.chained.erased rfl (hs.placed.not_behind hrec nofun) rfl htags (fun j g => ?_)
    (hs.placed.left_memory hm rfl (fun j => table_set_get _ _ _ _) rfl htags)
    ⟨hs.listed.nodup, hs.listed.waits, hs.listed.loading, hs.listed.worked⟩
    fun h => (hs.notices h).of_eq rfl rfl
  refine (and_iff_left_of_imp fun hg he => ?_).symm
  have hheld : s.recorded u (.held j) := ⟨g, hg, he⟩
  have hplace := hs.placed.unique hrec hheld
  cases hplace

/-- A memory response, by the state of its tag's entry (R160 to R164). -/
theorem State.Flows.memoryAnswer (hs : s.Flows (.settled n)) (r : MemResponse) : (memoryAnswer r s).Flows (.settled n) := by
  unfold Machine.memoryAnswer
  split
  · exact hs.post (by simp [Detail.kind])
  · rename_i hm
    have hfree := hs.freeMemTag (m := r.tag) (by rw [hm]; rfl)
    split
    · exact hfree
    · exact hfree.post (by simp [Detail.kind])
  · rename_i v o m a hm
    have hbusy : s.issue.forward[r.tag].busyTag = some v := by rw [hm]; rfl
    unfold State.returnResponse
    dsimp only
    cases okData r o m with
    | some d => exact (((hs.respond v .ok d).returned hbusy).advance rfl rfl).reportFreeing s
    | none =>
      have hposted := hs.post (d := .memoryFault r.tag (.hostTag v a)) (by simp [Detail.kind])
      exact (((hposted.respond v .fault []).returned hbusy).advance rfl rfl).reportFreeing s

/-! ### Deadlines (R43 to R46) -/

/-- A hold that expires is not held for ORDER: it has a deadline (R38). -/
theorem State.Flows.expire (hs : s.Flows (.settled n)) (hk : s.hold.slots[k].hold = some h) (hr : h.reason ≠ .order) :
    (s.expire k h).Flows (.settled n) := by
  have hleft := hs.leaveLists rfl k
  unfold State.expire
  dsimp only
  split
  · exact ((hleft.answerSlot rfl rfl hk hr .expired [] .expired).post (by simp [Detail.kind])).advance rfl rfl
  · exact (hleft.forwardSlot rfl hk hr rfl .expired).post (by simp [Detail.kind])

theorem State.Flows.runOut (hs : s.Flows (.settled n)) (hl : s.hold.Lawful) (k : Fin 16) : (runOut k s).Flows (.settled n) := by
  unfold Machine.runOut
  split
  · exact hs
  · rename_i h hk
    split
    · exact hs
    · rename_i d hd
      obtain ⟨hdead, -⟩ := hl.1 k h hk
      have hr : h.reason ≠ .order := hdead.mp (by rw [hd]; rfl)
      have hexpired := (hs.elapse d).expire (elapse_held hk d) hr
      exact hexpired.reportFreeing _

/-! ### Blocks that are cleared (R51, R52, R185) -/

/-- No slot is HELD, and no tag is a chain's member: chains and wait lists are empty. -/
theorem State.Flows.of_cleared (hp : s.Placed) (hh : ∀ j : Fin 16, s.hold.slots[j].hold = none) (hc : ∀ w : Fin 24, s.chains[w] = [])
    (hm : ∀ v : Fin 32, ∀ x ∈ s.host.tags[v], x.member = false) (hw : ∀ g : Fin 16, s.image.segments[g].waiting = [])
    (hn : n → s.NoticesSound) : s.Flows (.settled n) := by
  refine ⟨hp, ⟨fun w => ?_, fun w v => ?_, fun w v hv => ?_, fun j g hg => ?_⟩,
    ⟨fun g => ?_, fun g j => ?_, fun g hg => absurd (hw g) hg, nofun⟩, hn⟩
  · rw [hc]
    exact List.nodup_nil
  · rw [hc]
    refine iff_of_false List.not_mem_nil ?_
    rintro ⟨x, hx, hxm, -⟩
    rw [hm v x hx] at hxm
    cases hxm
  · rw [hc] at hv
    cases hv
  · rw [hh] at hg
    cases hg
  · rw [hw]
    exact List.nodup_nil
  · rw [hw]
    refine iff_of_false List.not_mem_nil ?_
    rintro ⟨⟨x, hx, -⟩, -⟩
    rw [hh] at hx
    cases hx

theorem State.NoticesSound.freeSlots (o : LastOutcome) (l : List (Fin 16)) :
    ∀ s : State, s.NoticesSound → (l.foldl (fun s k => s.freeSlot k o) s).NoticesSound := by
  induction l with
  | nil => exact fun s hs => hs
  | cons k rest ih => exact fun s hs => ih _ (hs.freeSlot o)

theorem orphaned_busyTag (f : Forward) : f.orphaned.busyTag = none := by
  cases f <;> rfl

/-- After a host link reset no request is anywhere (R51, R66, R131, R151, R167). -/
theorem State.Flows.resetLink (hs : s.Flows (.settled n)) : (resetLink s).Flows (.settled n) := by
  obtain ⟨hslots, -⟩ := freeAll_eq s .reset
  have htags : ∀ v : Fin 32, (Machine.resetLink s).host.tags[v] = none := by
    intro v
    rw [resetLink_eq]
    exact table_replicate_get _ _
  have hhold : ∀ j : Fin 16, (Machine.resetLink s).hold.slots[j].hold = none := by
    intro j
    rw [resetLink_eq]
    dsimp only
    rw [hslots, Slot.freedBy_hold]
  refine State.Flows.of_cleared ⟨?_, fun v p => ?_⟩ hhold (fun w => ?_) (fun v x hx => ?_) (fun g => ?_) fun hn => ?_
  · rw [resetLink_eq]
    exact List.nodup_nil
  · rw [htags]
    refine iff_of_false nofun ?_
    cases p with
    | queued =>
      rw [resetLink_eq]
      rintro ⟨x, hx, -⟩
      cases hx
    | forwarded m =>
      rw [State.recorded, resetLink_eq]
      dsimp only
      rw [tableMap_get, orphaned_busyTag]
      nofun
    | held j =>
      rintro ⟨x, hx, -⟩
      rw [hhold] at hx
      cases hx
  · rw [resetLink_eq]
    exact table_replicate_get _ _
  · rw [htags] at hx
    cases hx
  · rw [resetLink_eq]
    dsimp only
    rw [tableMap_get]
  · have hfreed : (s.freeAll .reset).NoticesSound := by
      rw [State.freeAll]
      exact State.NoticesSound.freeSlots .reset _ s (hs.notices hn)
    unfold Machine.resetLink
    generalize s.freeAll .reset = v at hfreed ⊢
    exact State.NoticesSound.post (hfreed.of_eq rfl rfl) (by simp [Detail.kind])

/-- After a clearall no slot is HELD and no tag a member; what is queued or forwarded stays so (R52, R67, R153, R168). -/
theorem State.Flows.clearBlocks (hs : s.Flows e) : s.clearBlocks.Flows (.settled n) := by
  have hlist : ∀ j, j ∈ s.clearOrder ++ List.finRange 16 := fun j => List.mem_append_right _ (List.mem_finRange j)
  have hhold : ∀ j : Fin 16, s.clearBlocks.hold.slots[j].hold = none := by
    intro j
    have hj := refuse_slots s (s.clearOrder ++ List.finRange 16) j
    rw [if_pos (hlist j)] at hj
    exact (congrArg (fun x : Slot => x.hold) hj).trans (Slot.cleared_hold _)
  have htags : ∀ v : Fin 32, s.clearBlocks.host.tags[v] = s.refuseAll.host.tags[v].map fun x => { x with member := false } :=
    fun v => tableMap_get _ _ v
  have hissue : s.clearBlocks.issue = s.issue := by
    have hframe : s.refuseAll = _ := refuse_frame s (s.clearOrder ++ List.finRange 16)
    have hissue := congrArg (fun t : State => t.issue) hframe
    exact hissue
  have hrec : ∀ (v : Fin 32) (p : TagPlace), s.clearBlocks.recorded v p ↔ s.recorded v p ∧ ∀ j, p ≠ .held j := by
    intro v p
    cases p with
    | queued => simp [State.recorded, hissue]
    | forwarded m => simp [State.recorded, hissue]
    | held j =>
      refine iff_of_false ?_ fun hp => hp.2 j rfl
      rintro ⟨x, hx, -⟩
      rw [hhold] at hx
      cases hx
  refine State.Flows.of_cleared ⟨?_, fun v p => ?_⟩ hhold (fun w => table_replicate_get _ _) (fun v x hx => ?_) (fun g => ?_)
    fun _ => State.noticesSound_of_clear (s := s.refuseAll) rfl
  · rw [hissue]
    exact hs.placed.queue
  · rw [htags, hrec, ← hs.placed.place]
    by_cases hv : ∃ (j : Fin 16) (x : Hold), s.hold.slots[j].hold = some x ∧ x.req.tag = v
    · obtain ⟨j, x, hx, rfl⟩ := hv
      have hfree : s.refuseAll.host.tags[x.req.tag] = none := refuse_tag_held s (hlist j) hx
      rw [hfree]
      refine iff_of_false nofun ?_
      rintro ⟨hp, hne⟩
      exact hne j (hs.placed.unique ((hs.placed.place _ _).mp hp) (State.recorded_held hx))
    · have hkept : s.refuseAll.host.tags[v] = s.host.tags[v] := refuse_tag_other s _ fun j x hx hxv => hv ⟨j, x, hx, hxv⟩
      rw [hkept]
      constructor
      · rintro ⟨y, hy, rfl⟩
        obtain ⟨x, hx, rfl⟩ := Option.map_eq_some_iff.mp hy
        refine ⟨⟨x, hx, rfl⟩, fun j hj => hv ?_⟩
        obtain ⟨g, hg, hgv⟩ := (hs.placed.place v (.held j)).mp ⟨x, hx, hj⟩
        exact ⟨j, g, hg, hgv⟩
      · rintro ⟨⟨x, hx, rfl⟩, -⟩
        exact ⟨{ x with member := false }, by rw [Option.mem_def.mp hx]; rfl, rfl⟩
  · rw [htags] at hx
    obtain ⟨y, -, rfl⟩ := Option.map_eq_some_iff.mp hx
    rfl
  · exact congrArg (fun x : Segment => x.waiting) (segments_empty_reset g)

/-! ### Completions and the pin (R25, R116, R184, R185) -/

theorem State.Flows.completeCommit (hs : s.Flows e) : (completeCommit s).Flows e := by
  unfold Machine.completeCommit
  split
  · split
    · exact hs.makeReady _ _ _ _
    · exact (hs.setWindows _).makeReady _ _ _ _
  · exact hs

/-- A checked segment is READY or FAILED: its waiters are to be worked through (R116). -/
theorem State.Flows.judge (hs : s.Flows (.settled n)) (g : Fin 16) (l : Live) (c : Word32) :
    (s.judge g l c).Flows { Stage.settled n with working := some (g, s.image.segments[g].waiting) } := by
  unfold State.judge
  split
  · exact hs.setLive g (by simp)
  · exact (hs.setLive g (l := some { l with state := .failed }) (by simp)).post (by simp [Detail.kind])

theorem State.Flows.completeScheck (hs : s.Flows (.settled n)) : (completeScheck s).Flows (.settled n) := by
  unfold Machine.completeScheck
  split
  · rename_i g c _
    split
    · exact hs
    · exact ((hs.judge g _ c).workThrough.reportFreeing s).makeReady _ _ _ _
  · exact hs

theorem State.Flows.completeClearall (hs : s.Flows (.settled n)) : (completeClearall s).Flows (.settled n) := by
  unfold Machine.completeClearall
  split
  · exact (hs.clearBlocks.reportFreeing s).makeReady _ _ _ _
  · exact hs

theorem State.flows_reset : State.reset.Flows (.settled n) := by
  obtain ⟨hp, hc, hl, -⟩ := (State.trafficLawful_iff.mp traffic_lawful_reset).1
  obtain ⟨hq, -, -, -, -, hh, -⟩ := resetIsLawful
  exact ⟨hp, hc, hl, fun _ => ⟨hq, hh⟩⟩

theorem State.flows_powerOn (s : State) (l : PinLevel) : (s.powerOn l).Flows (.settled n) :=
  State.flows_reset.frame (s := State.reset) ⟨rfl, rfl, rfl, fun _ => rfl, rfl, fun _ => rfl, fun _ => rfl⟩ rfl rfl

theorem State.Flows.movePin (hs : s.Flows (.settled n)) (l : PinLevel) : (movePin l s).Flows (.settled n) := by
  unfold Machine.movePin
  split
  · exact State.flows_powerOn s _
  · exact State.flows_powerOn s _
  · exact hs

/-! ### The step -/

theorem State.Flows.running {f : State → State} (hs : s.Flows e) (hf : (f s).Flows e) (ht : running s f = .next t) : t.Flows e := by
  unfold Machine.running at ht
  split at ht <;> cases ht
  · exact hf
  · exact hs

theorem State.Flows.exec (hs : s.Flows (.settled n)) (hl : s.hold.Lawful) {i : Instr} (ht : exec i s = .next t) :
    t.Flows (.settled n) := by
  cases hc : i.asCommand with
  | some x =>
    obtain ⟨c, q, p⟩ := x
    rw [asCommand_eq hc, exec_instrOf] at ht
    exact hs.running (hs.takeFrame _ fun v hv => hv.takeCommand c q p) ht
  | none =>
    cases i with
    | hostOffer r =>
      refine hs.running (f := offer r) ?_ ht
      unfold offer
      split
      · exact hs
      · exact hs.evaluate false r
    | grant => exact hs.running hs.grantOffer ht
    | memoryResponse m => exact hs.running (hs.memoryAnswer m) ht
    | expiry k => exact hs.running (hs.runOut hl k) ht
    | hostLinkReset => exact hs.running hs.resetLink ht
    | resetn l =>
      rw [exec_resetn] at ht
      cases ht
      exact hs.movePin l
    | commitCompletion => exact hs.running hs.completeCommit ht
    | scheckCompletion => exact hs.running hs.completeScheck ht
    | clearallCompletion => exact hs.running hs.completeClearall ht
    | poll rest => exact hs.running (hs.takePoll rest) ht
    | unexecutedFrame b c => exact hs.running (hs.takeRaw b c) ht
    | shortFrame w =>
      rw [exec_shortFrame] at ht
      cases ht
      exact hs
    | _ => simp [Instr.asCommand] at hc

theorem State.Flows.step (hs : s.Flows (.settled n)) (hl : s.hold.Lawful) (ht : step s = .next t) : t.Flows (.settled n) := by
  unfold Machine.step at ht
  split at ht
  · cases ht
    exact hs.elapse 1
  · rename_i rest _
    exact (hs.setPending rest).exec hl ht

/-- Settles O58: the relaxed laws hold from one settled state to the next, whatever an event leaves to do on the way. -/
theorem trafficStaysLawful : Obligations.TrafficStaysLawful := by
  intro s t hs ht
  obtain ⟨hflows, hholds⟩ := State.trafficLawful_iff.mp hs
  exact State.trafficLawful_iff.mpr ⟨hflows.step hholds ht, holdsStayLawful s t hholds ht⟩

/-- The laws of the notices and those of the traffic are kept together. -/
theorem step_keeps_noticesSound (hs : s.TrafficLawful) (hn : s.NoticesSound) (ht : step s = .next t) : t.NoticesSound := by
  obtain ⟨⟨hp, hc, hl, -⟩, hholds⟩ := State.trafficLawful_iff.mp hs
  have hflows : s.Flows (.settled True) := ⟨hp, hc, hl, fun _ => hn⟩
  exact (hflows.step hholds ht).notices trivial

/-- Settles O54: the queue's own law by moves, the law of the holds that it names with the laws of traffic, and the bounds by counting. -/
theorem noticesStayLawful : Obligations.NoticesStayLawful :=
  ⟨fun _ _ hq ht => step_keeps_noticesLawful hq ht, fun _ _ hq hs hn ht => (step_keeps_noticesSound hs ⟨hq, hn⟩ ht).2,
    fun _ hq hn => ⟨names_length_le hn, entries_length_le hq hn⟩⟩

end Sys2Proof.Machine
end

section
/-! A chain's head answered: what the cascade does to the first member behind it, case by case (R60 to R62). -/

namespace Sys2Proof.Machine

open Claims

/-- A state from which slot j's request has gone with a response, its notice withdrawn from a queue of notices. -/
def State.departed (s : State) (j : Fin 16) (g : Hold) (q : NoticeQueue) (st : HostStatus) (d : List Byte) (o : LastOutcome) : State :=
  { s with hold := freed s.hold j o, notices := q.withdraw j, host := responded s.host g.req.tag st d }

section first

variable {s : State} {w : Fin 24} {j : Fin 16} {g : Hold} {e : TagEntry} {rest : List (Fin 32)}

theorem answerSlot_departed (hj : s.hold.slots[j].hold = some g) (st : HostStatus) (d : List Byte) (o : LastOutcome) :
    s.answerSlot j g st d o = s.departed j g s.notices st d o := by
  rw [answerSlot_held hj]
  rfl

/-- A FAULT that comes with a notice. -/
theorem answerServed_post (hj : s.hold.slots[j].hold = some g) (x : Detail) :
    (s.post x).answerServed j g none = s.departed j g (s.notices.post x) .fault [] .refused :=
  answerSlot_departed (s := s.post x) hj _ _ _

theorem slotOf_eq (he : s.host.tags[g.req.tag] = some e) (hp : e.place = .held j) (hj : s.hold.slots[j].hold = some g) :
    s.slotOf g.req.tag = some (j, g) := by
  obtain ⟨p, win, m⟩ := e
  dsimp only at hp
  subst hp
  simp only [State.slotOf, he, hj, Option.map_some]

/-- The first member left goes on in its place: the cascade stops at it. -/
theorem cascade_stops (hslot : s.slotOf g.req.tag = some (j, g)) {t : State} (ht : s.startHead j g = (t, false)) :
    State.cascade w (g.req.tag :: rest) s = t.setChain w (g.req.tag :: rest) := by
  rw [cascade_cons s w j g rest hslot, ht]
  rfl

/-- The first member left is answered: the cascade goes on behind it. -/
theorem cascade_goes (hslot : s.slotOf g.req.tag = some (j, g)) {t : State} (ht : s.startHead j g = (t, true)) :
    State.cascade w (g.req.tag :: rest) s = State.cascade w rest t := by
  rw [cascade_cons s w j g rest hslot, ht]
  rfl

theorem not_loading_of_ready {x : Fin 16} {l : Live} (hlive : s.image.segments[x].live = some l) (hready : l.state = .ready) :
    ∀ y ∈ s.image.segments[x].live, y.state ≠ .loading := by
  intro y hy
  rw [Option.mem_unique hy hlive, hready]
  nofun

variable (hslot : s.slotOf g.req.tag = some (j, g)) (hj : s.hold.slots[j].hold = some g)

include hslot hj

theorem cascade_pass (he : s.host.tags[g.req.tag] = some e) (hr : g.decision.ruling = .pass) :
    State.cascade w (g.req.tag :: rest) s =
      { s with
        chains := s.chains.set w (g.req.tag :: rest)
        issue := { s.issue with queue := s.issue.queue ++ [issueEntry g.req g.decision.downstream] }
        hold := freed s.hold j .passed
        notices := s.notices.withdraw j
        host := { s.host with tags := s.host.tags.set g.req.tag (some { e with place := .queued }) } } := by
  rw [cascade_stops hslot (startHead_pass hr), forwardSlot_held hj, he]
  rfl

omit hj in
theorem cascade_defer (hr : g.decision.ruling = .defer) :
    State.cascade w (g.req.tag :: rest) s =
      { s with
        chains := s.chains.set w (g.req.tag :: rest)
        hold := heldSlot s.hold j (g.deferred s.hold.timeouts[g.decision.timeoutClass])
        notices := s.notices.append (.hold j s.hold.slots[j].use g.req.op g.decision.window g.req.addr g.req.len) } :=
  cascade_stops hslot (startHead_defer hr)

theorem cascade_deny (hr : g.decision.ruling = .deny) :
    State.cascade w (g.req.tag :: rest) s = State.cascade w rest (s.departed j g s.notices .refused [] .refused) := by
  rw [cascade_goes hslot (startHead_deny hr), answerSlot_departed hj]

theorem cascade_discard (hr : g.decision.ruling = .discard) :
    State.cascade w (g.req.tag :: rest) s = State.cascade w rest (s.departed j g s.notices .ok [] .answered) := by
  rw [cascade_goes hslot (startHead_discard hr), answerSlot_departed hj]

variable {x : Fin 16} {p : Nat} (hr : g.decision.ruling = .serve x p)

include hr

omit hj in
theorem cascade_wait (hl : s.image.isLoading x = true) :
    State.cascade w (g.req.tag :: rest) s =
      { s with
        chains := s.chains.set w (g.req.tag :: rest)
        hold := heldSlot s.hold j (g.waiting s.hold.timeouts[g.decision.timeoutClass])
        image := s.image.setWaiting x (s.image.segments[x].waiting ++ [j]) } :=
  cascade_stops hslot (startHead_wait hr hl)

omit hj in
/-- A member of a segment that is not LOADING is answered by what serving it gives. -/
theorem cascade_served (hl : ∀ l ∈ s.image.segments[x].live, l.state ≠ .loading) {t : State} {out : Option (List Byte)}
    (ht : s.serve x p g.req = (t, out)) : State.cascade w (g.req.tag :: rest) s = State.cascade w rest (t.answerServed j g out) := by
  rw [cascade_goes hslot (startHead_serve hr (isLoading_eq_false hl)), ht]

theorem cascade_failed (hl : s.image.segments[x].live = none ∨ ∃ l ∈ s.image.segments[x].live, l.state = .failed) :
    State.cascade w (g.req.tag :: rest) s =
      State.cascade w rest (s.departed j g (s.notices.post (.imageFault x .failed)) .fault [] .refused) := by
  have hstate : ∀ l ∈ s.image.segments[x].live, l.state = .failed := by
    intro l hlive
    rcases hl with hnone | ⟨m, hm, hf⟩
    · rw [hnone] at hlive
      cases hlive
    · rw [Option.mem_unique hlive hm, hf]
  rw [cascade_served hslot hr (fun l hlive => by simp [hstate l hlive]) (serve_failed fun l hlive => by simp [hstate l hlive]),
    answerServed_post hj]

variable {l : Live} (hlive : s.image.segments[x].live = some l) (hready : l.state = .ready)

include hlive hready

theorem cascade_range (hp : l.length < p + g.req.len.toNat) :
    State.cascade w (g.req.tag :: rest) s =
      State.cascade w rest (s.departed j g (s.notices.post (.imageFault x .range)) .fault [] .refused) := by
  rw [cascade_served hslot hr (not_loading_of_ready hlive hready) (serve_range hlive hready hp), answerServed_post hj]

theorem cascade_read (hp : p + g.req.len.toNat ≤ l.length) (ho : g.req.op = .read) :
    State.cascade w (g.req.tag :: rest) s =
      State.cascade w rest
        (s.departed j g s.notices .ok (readBytes s.image.bytes (l.base + p) g.req.len.toNat) .served) := by
  rw [cascade_served hslot hr (not_loading_of_ready hlive hready) (serve_ready hlive hready hp), ImageStore.serveBytes,
    ImageStore.serveData, ho]
  exact congrArg _ (answerSlot_departed hj _ _ _)

theorem cascade_write (hp : p + g.req.len.toNat ≤ l.length) (ho : g.req.op = .write) :
    State.cascade w (g.req.tag :: rest) s =
      State.cascade w rest
        { s.departed j g s.notices .ok [] .served with
          image := { s.image with bytes := writeEnabled s.image.bytes (l.base + p) g.req.data (writeFlags g.req) } } := by
  rw [cascade_served hslot hr (not_loading_of_ready hlive hready) (serve_ready hlive hready hp), ImageStore.serveBytes,
    ImageStore.serveData, ho]
  exact congrArg _ (answerSlot_departed (j := j) (g := g)
    (s := s.setImage { s.image with bytes := writeEnabled s.image.bytes (l.base + p) g.req.data (writeFlags g.req) }) hj _ _ _)

end first

end Sys2Proof.Machine
end

section
/-! Whatever answers a chain's head: the event is that of a request in no chain, followed by the cascade over the members behind it (R35, R60,
R161, R162). -/

namespace Sys2Proof.Machine

open Claims

/-! ### The cascade, stall, port and pin -/

section steady

variable (w : Fin 24) (l : List (Fin 32)) (s : State)

theorem cascade_steady : Steady (State.cascade w l) := fun s x p n => cascade_framed s x p n w l

theorem cascade_stalled : (State.cascade w l s).host.stalled = s.host.stalled := ((cascade_steady w l).keeps (s := s)).1

/-- The cascade does not touch the port. -/
theorem cascade_setPort (p : ServicePort) : (State.cascade w l s).setPort p = State.cascade w l (s.setPort p) := by
  obtain ⟨hstall, -, hpin⟩ := (cascade_steady w l).keeps (s := s)
  have hframe : ∀ t : State, t.setPort p = t.framed t.host.stalled p t.resetn := fun _ => rfl
  rw [hframe, hframe, hstall, hpin, cascade_framed]

theorem cascade_makeReady (code q : Byte) (r : Result) (d : List Byte) :
    (State.cascade w l s).makeReady code q r d = State.cascade w l (s.makeReady code q r d) := by
  obtain ⟨-, hport, -⟩ := (cascade_steady w l).keeps (s := s)
  unfold State.makeReady
  rw [hport, cascade_setPort]

end steady

/-! ### A head marked as no chain member -/

section marked

variable {s t0 : State} {w : Fin 24} {t : Fin 32} {rest : List (Fin 32)} {k : Fin 16} {h : Hold}

/-- The head's tag is busy, marked or not. -/
theorem outOfChain_tag (hh : Heads s w t rest) : (outOfChain s t).host.tags[t] ≠ none := by
  obtain ⟨-, p, hp⟩ := hh
  have htag : (outOfChain s t).host.tags[t] = s.host.tags[t].map fun e => { e with member := false } := table_set_get_self _ _ _
  rw [htag, hp]
  nofun

theorem outOfChain_setTag (s : State) (t : Fin 32) (x : Option TagEntry) : (outOfChain s t).setTag t x = s.setTag t x := by
  simp only [State.setTag, State.setHost, outOfChain, table_set_set]

theorem freeSlot_outOfChain (s : State) (t : Fin 32) (k : Fin 16) (o : LastOutcome) :
    (outOfChain s t).freeSlot k o = outOfChain (s.freeSlot k o) t := by
  cases hk : s.hold.slots[k].hold with
  | none => rw [freeSlot_free hk, freeSlot_free (s := outOfChain s t) hk]
  | some h =>
    rw [freeSlot_held hk, freeSlot_held (s := outOfChain s t) hk]
    rfl

/-- The answer of the marked request makes its tag FREE, and so takes the mark with it. -/
theorem answerSlot_outOfChain (s : State) (k : Fin 16) (h : Hold) (st : HostStatus) (d : List Byte) (o : LastOutcome) :
    (outOfChain s h.req.tag).answerSlot k h st d o = s.answerSlot k h st d o := by
  have hfree : ((outOfChain s h.req.tag).respond h.req.tag st d).freeSlot k o =
      outOfChain ((s.respond h.req.tag st d).freeSlot k o) h.req.tag := freeSlot_outOfChain (s.respond h.req.tag st d) _ k o
  rw [State.answerSlot, hfree, outOfChain_setTag]
  rfl

theorem answerSlot_chains (s : State) (k : Fin 16) (h : Hold) (st : HostStatus) (d : List Byte) (o : LastOutcome) :
    (s.answerSlot k h st d o).chains = s.chains ∧ (s.answerSlot k h st d o).host.stalled = s.host.stalled := by
  rw [State.answerSlot, freeSlot_frame]
  exact ⟨rfl, rfl⟩

/-- A request put into the issue queue keeps its tag busy. -/
theorem forwardSlot_tag (s : State) (k : Fin 16) (h : Hold) (e : IssueEntry) (o : LastOutcome) :
    (s.forwardSlot k h e o).host.tags[h.req.tag] = s.host.tags[h.req.tag].map fun x => { x with place := .queued } := by
  rw [State.forwardSlot, freeSlot_frame]
  exact table_set_get_self _ _ _

/-- The head's answer starts the cascade. -/
theorem advance_heads (hh : Heads s w t rest) {z : State} (hz : z.chains = s.chains) :
    z.advance t s.host.tags[t] = State.cascade w rest z := by
  obtain ⟨hc, p, hp⟩ := hh
  rw [hp]
  exact advance_head p (hz.symm ▸ hc)

/-- The answer of a request marked as no member advances no chain. -/
theorem advance_outOfChain (s : State) (t : Fin 32) (z : State) : z.advance t (outOfChain s t).host.tags[t] = z := by
  refine advance_plain t fun x hx => ?_
  have htag : (outOfChain s t).host.tags[t] = s.host.tags[t].map fun e => { e with member := false } := table_set_get_self _ _ _
  rw [htag] at hx
  obtain ⟨y, -, rfl⟩ := Option.map_eq_some_iff.mp hx
  rfl

/-! ### Commands -/

/-- An answer to a command on a chain's head is, where it makes the head's tag FREE, the answer with the head marked as no member, followed by
the cascade. -/
def AnswerCascades (w : Fin 24) (t : Fin 32) (rest : List (Fin 32)) (a b : Answer) : Prop :=
  b.after.host.tags[t] = none → a.result = b.result ∧ a.payload = b.payload ∧ a.after = State.cascade w rest b.after

/-- An answer that changes nothing leaves the tag busy. -/
theorem answers_cascade (hh : Heads s w t rest) (r : Result) (d : List Byte) :
    AnswerCascades w t rest (s.answers r d) ((outOfChain s t).answers r d) := fun hfree => absurd hfree (outOfChain_tag hh)

/-- A decision that answers the head. -/
theorem decided_cascades (hs : s.host.stalled = none) (hh : Heads s w h.req.tag rest) (st : HostStatus) (d : List Byte) (o : LastOutcome) :
    AnswerCascades w h.req.tag rest (s.decided (s.endHold k h st d o))
      ((outOfChain s h.req.tag).decided ((outOfChain s h.req.tag).endHold k h st d o)) := by
  intro _
  obtain ⟨hchains, hstall⟩ := answerSlot_chains s k h st d o
  have hopen : (s.answerSlot k h st d o).host.stalled = none := hstall.trans hs
  refine ⟨rfl, rfl, ?_⟩
  simp only [State.decided, State.endHold]
  rw [answerSlot_outOfChain, advance_outOfChain, advance_heads hh hchains, reportFreeing_open _ hopen,
    reportFreeing_open _ ((cascade_stalled w rest _).trans hopen)]

/-- The checks of a decision are those of the marked head's. -/
theorem withDefer_cascades (hh : Heads s w t rest) (hk : s.hold.slots[k].hold = some h) (use : Byte) {f f' : Fin 16 → Hold → Answer}
    (hf : AnswerCascades w t rest (f k h) (f' k h)) :
    AnswerCascades w t rest (s.withDefer (indexByte k) use f) ((outOfChain s t).withDefer (indexByte k) use f') := by
  have hk' : (outOfChain s t).hold.slots[k].hold = some h := hk
  simp only [State.withDefer, State.withCurrent, indexOf_indexByte (show 16 ≤ 256 by decide) k, hk, hk']
  exact ite_rel Iff.rfl (ite_rel Iff.rfl hf (answers_cascade hh _ _)) (answers_cascade hh _ _)

variable {p : List Byte} (hs : s.host.stalled = none) (hh : Heads s w h.req.tag rest) (hk : s.hold.slots[k].hold = some h)
  (hp : p.head? = some (indexByte k))

include hs hh hk hp

theorem hdataBody_cascades : AnswerCascades w h.req.tag rest (hdataBody p s) (hdataBody p (outOfChain s h.req.tag)) := by
  rcases p with _ | ⟨a, _ | ⟨u, data⟩⟩
  · cases hp
  · exact answers_cascade hh _ _
  · obtain rfl : a = indexByte k := Option.some.inj hp
    refine ite_rel Iff.rfl (answers_cascade hh _ _) (withDefer_cascades hh hk u ?_)
    exact ite_rel Iff.rfl (answers_cascade hh _ _) (ite_rel Iff.rfl (answers_cascade hh _ _) (decided_cascades hs hh _ _ _))

theorem hdoneBody_cascades : AnswerCascades w h.req.tag rest (hdoneBody p s) (hdoneBody p (outOfChain s h.req.tag)) := by
  rcases p with _ | ⟨a, _ | ⟨u, data⟩⟩
  · cases hp
  · exact answers_cascade hh _ _
  · obtain rfl : a = indexByte k := Option.some.inj hp
    refine ite_rel Iff.rfl (answers_cascade hh _ _) (withDefer_cascades hh hk u ?_)
    exact ite_rel Iff.rfl (answers_cascade hh _ _) (ite_rel Iff.rfl (answers_cascade hh _ _) (decided_cascades hs hh _ _ _))

theorem hrefuseBody_cascades : AnswerCascades w h.req.tag rest (hrefuseBody p s) (hrefuseBody p (outOfChain s h.req.tag)) := by
  rcases p with _ | ⟨a, _ | ⟨u, _ | ⟨st, _ | _⟩⟩⟩
  case nil => cases hp
  case cons.cons.cons.nil =>
    obtain rfl : a = indexByte k := Option.some.inj hp
    refine withDefer_cascades hh hk u ?_
    exact ite_rel Iff.rfl (decided_cascades hs hh _ _ _) (ite_rel Iff.rfl (decided_cascades hs hh _ _ _) (answers_cascade hh _ _))
  all_goals exact answers_cascade hh _ _

omit hs hh hk hp

/-- An event that leaves a part in reset, or a BUSY port, as it was does not answer the head. -/
theorem running_cascades (hh : Heads s w t rest) {f : State → State} (hrun : running (outOfChain s t) f = .next t0)
    (ht : t0.host.tags[t] = none)
    (hf : s.resetn = .high → (f (outOfChain s t)).host.tags[t] = none → f s = State.cascade w rest (f (outOfChain s t))) :
    running s f = .next (State.cascade w rest t0) := by
  cases hr : s.resetn with
  | low =>
    rw [running_low (s := outOfChain s t) hr] at hrun
    cases hrun
    exact absurd ht (outOfChain_tag hh)
  | high =>
    rw [running_high (s := outOfChain s t) hr] at hrun
    cases hrun
    rw [running_high hr, hf hr ht]

/-- An immediate command on the head, from what its body answers. -/
theorem immediate_cascades (hh : Heads s w t rest) {m : Nat} {c : Command} {q : Byte} {body : State → Answer}
    (hb : ∀ x : ServicePort, AnswerCascades w t rest (body (s.setPort x)) (body (outOfChain (s.setPort x) t)))
    (hrun : running (outOfChain s t) (fun s => s.takeFrame m fun s => s.immediately c q body) = .next t0)
    (ht : t0.host.tags[t] = none) :
    running s (fun s => s.takeFrame m fun s => s.immediately c q body) = .next (State.cascade w rest t0) := by
  refine running_cascades hh hrun ht fun hr hfree => ?_
  by_cases hbusy : ∃ c, s.port.phase = .busy c
  · obtain ⟨c, hc⟩ := hbusy
    rw [takeFrame_busy (s := outOfChain s t) hc] at hfree
    exact absurd hfree (outOfChain_tag hh)
  · have ha : Accepts s := ⟨hr, fun c hc => hbusy ⟨c, hc⟩⟩
    have ha' : Accepts (outOfChain s t) := ha
    rw [takeFrame_accepts ha'] at hfree ⊢
    rw [takeFrame_accepts ha]
    obtain ⟨hresult, hpayload, hafter⟩ := hb (handling s.port m) hfree
    simp only [State.immediately]
    rw [hresult, hpayload, hafter, cascade_makeReady]
    rfl

/-! ### The head's deadline and its memory response -/

theorem expire_stalled (s : State) (k : Fin 16) (h : Hold) : (s.expire k h).host.stalled = s.host.stalled :=
  (Steady.keeps s (f := fun s => s.expire k h) fun s x p n => expire_framed s x p n k h).1

/-- A head that expires is answered, or stays busy in the issue queue (R44, R45). -/
theorem expire_cascades (hh : Heads s w h.req.tag rest) (hfree : ((outOfChain s h.req.tag).expire k h).host.tags[h.req.tag] = none) :
    s.expire k h = State.cascade w rest ((outOfChain s h.req.tag).expire k h) := by
  cases ha : h.decision.expiryAction with
  | expire =>
    obtain ⟨hchains, -⟩ := answerSlot_chains (s.setImage (s.image.leaveLists k)) k h .expired [] .expired
    have hanswer : ((outOfChain s h.req.tag).setImage ((outOfChain s h.req.tag).image.leaveLists k)).answerSlot k h .expired [] .expired = _ :=
      answerSlot_outOfChain (s.setImage (s.image.leaveLists k)) k h .expired [] .expired
    rw [expire_of_expire _ k ha, expire_of_expire _ k ha, advance_outOfChain, hanswer]
    exact advance_heads hh hchains
  | forward =>
    rw [expire_of_forward _ k ha] at hfree
    have hbusy := (forwardSlot_tag (outOfChain (s.setImage (s.image.leaveLists k)) h.req.tag) k h _ _).symm.trans hfree
    exact absurd (Option.map_eq_none_iff.mp hbusy) (outOfChain_tag (s := s.setImage (s.image.leaveLists k)) hh)

theorem runOut_cascades (hs : s.host.stalled = none) (hh : Heads s w h.req.tag rest) (hk : s.hold.slots[k].hold = some h)
    (hfree : (runOut k (outOfChain s h.req.tag)).host.tags[h.req.tag] = none) :
    runOut k s = State.cascade w rest (runOut k (outOfChain s h.req.tag)) := by
  have hk' : (outOfChain s h.req.tag).hold.slots[k].hold = some h := hk
  cases hd : h.deadline with
  | none =>
    rw [runOut_none (s := outOfChain s h.req.tag) fun g hg => by rw [Option.mem_unique hg hk', hd]] at hfree
    exact absurd hfree (outOfChain_tag hh)
  | some d =>
    let z := s.setHold (s.hold.elapse d)
    have hz : (outOfChain s h.req.tag).setHold ((outOfChain s h.req.tag).hold.elapse d) = outOfChain z h.req.tag := rfl
    have hopen : (z.expire k h).host.stalled = none := (expire_stalled z k h).trans hs
    have hopen' : ((outOfChain z h.req.tag).expire k h).host.stalled = none := (expire_stalled _ k h).trans hs
    rw [runOut_deadline hk' hd, hz, reportFreeing_open _ hopen'] at hfree ⊢
    rw [runOut_deadline hk hd, reportFreeing_open _ hopen]
    exact expire_cascades (s := z) hh hfree

/-- A memory response for the head's request answers it (R161). -/
theorem memoryAnswer_cascades (hs : s.host.stalled = none) (hh : Heads s w t rest) {m : MemResponse} {o : Op} {n : Byte} {a : Addr}
    (hm : s.issue.forward[m.tag] = .busy t o n a) :
    memoryAnswer m s = State.cascade w rest (memoryAnswer m (outOfChain s t)) := by
  have hm' : (outOfChain s t).issue.forward[m.tag] = .busy t o n a := hm
  have hleft : ∀ y : State, y.chains = s.chains → y.host.stalled = none →
      (((y.freeMemTag m.tag).setTag t none).advance t s.host.tags[t]).reportFreeing s =
        State.cascade w rest
          (((((outOfChain y t).freeMemTag m.tag).setTag t none).advance t (outOfChain s t).host.tags[t]).reportFreeing (outOfChain s t)) := by
    intro y hc hopen
    have hfreed : ((outOfChain y t).freeMemTag m.tag).setTag t none = (y.freeMemTag m.tag).setTag t none :=
      outOfChain_setTag (y.freeMemTag m.tag) t none
    have hstill : ((y.freeMemTag m.tag).setTag t none).host.stalled = none := hopen
    rw [hfreed, advance_outOfChain, advance_heads hh (z := (y.freeMemTag m.tag).setTag t none) hc, reportFreeing_open _ hstill,
      reportFreeing_open _ ((cascade_stalled w rest _).trans hstill)]
  simp only [memoryAnswer, hm, hm', State.returnResponse]
  cases okData m o n with
  | some d => exact hleft (s.respond t .ok d) rfl hs
  | none => exact hleft ((s.post (.memoryFault m.tag (.hostTag t a))).respond t .fault []) rfl hs

/-- Whatever sends the response of a chain's head starts the cascade over the members behind it (R60, R162). -/
theorem exec_cascades {i : Instr} (hs : s.host.stalled = none) (hh : Heads s w t rest) (hi : RulesOn s t i)
    (hrun : exec i (outOfChain s t) = .next t0) (ht : t0.host.tags[t] = none) : exec i s = .next (State.cascade w rest t0) := by
  cases i with
  | hdata q p =>
    obtain ⟨k, hp, h, hk, rfl⟩ := hi
    rw [exec_hdata] at hrun ⊢
    exact immediate_cascades hh (fun x => hdataBody_cascades (s := s.setPort x) hs hh hk hp) hrun ht
  | hdone q p =>
    obtain ⟨k, hp, h, hk, rfl⟩ := hi
    rw [exec_hdone] at hrun ⊢
    exact immediate_cascades hh (fun x => hdoneBody_cascades (s := s.setPort x) hs hh hk hp) hrun ht
  | hrefuse q p =>
    obtain ⟨k, hp, h, hk, rfl⟩ := hi
    rw [exec_hrefuse] at hrun ⊢
    exact immediate_cascades hh (fun x => hrefuseBody_cascades (s := s.setPort x) hs hh hk hp) hrun ht
  | expiry k =>
    obtain ⟨h, hk, rfl⟩ := hi
    rw [exec_expiry] at hrun ⊢
    exact running_cascades hh hrun ht fun _ hfree => runOut_cascades hs hh hk hfree
  | memoryResponse m =>
    obtain ⟨o, n, a, hm⟩ := hi
    rw [exec_memoryResponse] at hrun ⊢
    exact running_cascades hh hrun ht fun _ _ => memoryAnswer_cascades hs hh hm
  | _ => exact hi.elim

end marked

/-! ### The hdone of a head that a WRITE is -/

section hdone

variable {s : State} {w : Fin 24} {k : Fin 16} {h : Hold} {rest : List (Fin 32)}

theorem hdoneBody_write (hk : s.hold.slots[k].hold = some h) (hr : h.reason = .defer) (hop : h.req.op = .write) :
    hdoneBody [indexByte k, s.hold.slots[k].use] s = s.decided (s.endHold k h .ok [] .answered) := by
  simp only [hdoneBody, List.length_nil, Nat.not_lt_zero, if_false]
  rw [withDefer_current _ (indexOf_indexByte (by decide) k) hk hr]
  simp [hop]

/-- The head's hold ended, and the cascade over the members behind it (R75, R60). -/
theorem exec_hdone_head (q : Byte) (ha : Accepts s) (hs : s.host.stalled = none) (hk : s.hold.slots[k].hold = some h)
    (hr : h.reason = .defer) (hop : h.req.op = .write) (hh : Heads s w h.req.tag rest) :
    exec (.hdone q [indexByte k, s.hold.slots[k].use]) s =
      .next (State.cascade w rest (ended s k h .ok [] .answered (replied s.port 6 0x32 q .done []))) := by
  have hbody : ∀ p : ServicePort, (s.setPort p).decided ((s.setPort p).endHold k h .ok [] .answered) =
      ⟨.done, [], (State.cascade w rest (s.answerSlot k h .ok [] .answered)).setPort p⟩ := by
    intro p
    obtain ⟨hchains, hstall⟩ := answerSlot_chains (s.setPort p) k h .ok [] .answered
    have hport : (s.setPort p).answerSlot k h .ok [] .answered = (s.answerSlot k h .ok [] .answered).setPort p := by
      rw [answerSlot_held hk, answerSlot_held (s := s.setPort p) hk]
      rfl
    simp only [State.decided, State.endHold]
    rw [advance_heads (s := s.setPort p) hh hchains, reportFreeing_open _ ((cascade_stalled w rest _).trans (hstall.trans hs)), hport,
      cascade_setPort]
  have hnext := immediate_next ha 6 .hdone q (hdoneBody [indexByte k, s.hold.slots[k].use])
    ((hdoneBody_write (s := s.setPort (handling s.port 6)) hk hr hop).trans (hbody _))
  rw [exec_hdone]
  refine hnext.trans ?_
  rw [cascade_setPort, answerSlot_held hk]
  rfl

end hdone

/-- Settles O28: the event's state with the head marked as no member is the state that the cascade starts from, and the cascade takes its members by
their decisions. -/
theorem answeredHeadStartsTheNextMember : Obligations.AnsweredHeadStartsTheNextMember := by
  refine ⟨fun i w t rest s t0 hs hh hi hrun ht => exec_cascades hs hh hi hrun ht, fun w s => rfl, ?_, ?_⟩
  · intro w j g e rest s he hp hj
    have hslot := slotOf_eq he hp hj
    refine ⟨cascade_pass hslot hj he, cascade_defer hslot, cascade_deny hslot hj, cascade_discard hslot hj, fun x p hr => ?_⟩
    refine ⟨cascade_wait hslot hr, cascade_failed hslot hj hr, fun l hl hready => ?_⟩
    exact ⟨cascade_range hslot hj hr hl hready, cascade_read hslot hj hr hl hready, cascade_write hslot hj hr hl hready⟩
  · rintro q u k j h g w rest s ha ⟨hk, rfl, hr⟩ hop hs hjk htag hc hth htg hj hg
    rw [exec_hdone_head q ha hs hk hr hop ⟨hc, _, hth⟩]
    generalize hb : ended s k h .ok [] .answered (replied s.port 6 0x32 q .done []) = b
    have hslot : b.hold.slots[j] = s.hold.slots[j] := by
      rw [← hb]
      exact table_set_get_ne _ _ hjk.symm
    have hheld : b.hold.slots[j].hold = some g := by rw [hslot, hj]
    have hbusy : b.host.tags[g.req.tag] = some { place := .held j, window := some w, member := true } := by
      rw [← hb]
      exact (table_set_get_ne _ _ htag.symm).trans htg
    have hchains : b.chains = s.chains := by rw [← hb]; rfl
    have himage : b.image = s.image := by rw [← hb]; rfl
    have hat := slotOf_eq hbusy rfl hheld
    rw [← hslot, ← hchains, ← himage]
    refine ⟨fun hr => congrArg _ (cascade_pass hat hheld hbusy hr), fun hr => congrArg _ (cascade_defer hat hr),
      fun x p hr hl => congrArg _ (cascade_wait hat hr hl), ?_⟩
    rintro rfl
    exact ⟨fun hr => congrArg _ (cascade_deny hat hheld hr), fun hr => congrArg _ (cascade_discard hat hheld hr),
      fun x p l hr ho hl hready hp => congrArg _ (cascade_read hat hheld hr hl hready hp ho)⟩

end Sys2Proof.Machine
end

section
/-! Wait lists worked through by the completion of scheck, by sabort and by sfree: each member is answered in list order, and the cascade of a
member that heads a chain comes before the next member (R36, R63, R116 to R119, R122, R123, R126). -/

namespace Sys2Proof.Machine

open Claims

/-! ### One member (R63, R126) -/

/-- A slot taken off the wait list of segment g (R126). -/
def State.unlist (s : State) (g k : Fin 16) : State :=
  s.setImage (s.image.setWaiting g (s.image.segments[g].waiting.filter fun j => j ≠ k))

/-- Segment g is READY, and h is to be served from offset p: its request is then served when the wait list is worked through (R126). -/
def Served (s : State) (g : Fin 16) (h : Hold) (p : Nat) : Prop :=
  (∃ l ∈ s.image.segments[g].live, l.state = .ready) ∧ ∃ x, h.decision.ruling = .serve x p

section member

variable {s : State} {g k : Fin 16} {h : Hold} {p : Nat}

theorem unlist_live (s : State) (g k : Fin 16) : (s.unlist g k).image.segments[g].live = s.image.segments[g].live :=
  setWaiting_live _ _ _ _

/-- A member that its READY segment serves: off the list, answered by what serving it gave, and then its chain advances. -/
theorem workMember_served (hk : s.hold.slots[k].hold = some h) (hp : Served s g h p) :
    State.workMember g s k =
      (((s.unlist g k).serve g p h.req).1.answerServed k h ((s.unlist g k).serve g p h.req).2).advance h.req.tag
        s.host.tags[h.req.tag] := by
  obtain ⟨⟨⟨_, b, n, c⟩, hl, rfl⟩, x, hr⟩ := hp
  obtain ⟨-, -, hhost⟩ := serve_fields (s.unlist g k) g p h.req
  have htags : ((s.unlist g k).serve g p h.req).1.host.tags = s.host.tags := congrArg HostLink.tags hhost
  rw [← htags]
  simp only [State.workMember, State.setImage_hold, State.setImage_image, setWaiting_live, hk, Option.mem_def.mp hl, hr]
  rfl

/-- A member that is not served: off the list, answered FAULT, and then its chain advances. -/
theorem workMember_faulted (hk : s.hold.slots[k].hold = some h) (hn : ∀ p, ¬ Served s g h p) :
    State.workMember g s k = ((s.unlist g k).answerSlot k h .fault [] .refused).advance h.req.tag s.host.tags[h.req.tag] := by
  simp only [State.workMember, State.setImage_hold, State.setImage_image, setWaiting_live, hk]
  split
  · rename_i hl hr
    exact absurd ⟨⟨_, hl, rfl⟩, _, hr⟩ (hn _)
  · rfl

theorem serve_outOfChain (s : State) (t : Fin 32) (g : Fin 16) (p : Nat) (r : HostRequest) :
    (outOfChain s t).serve g p r = (outOfChain (s.serve g p r).1 t, (s.serve g p r).2) := by
  have himage : (outOfChain s t).image = s.image := rfl
  unfold State.serve
  rw [himage]
  split
  · split_ifs <;> rfl
  · rfl

theorem answerServed_outOfChain (s : State) (k : Fin 16) (h : Hold) (out : Option (List Byte)) :
    (outOfChain s h.req.tag).answerServed k h out = s.answerServed k h out := by
  cases out <;> exact answerSlot_outOfChain _ _ _ _ _ _

theorem answerServed_chains (s : State) (k : Fin 16) (h : Hold) (out : Option (List Byte)) :
    (s.answerServed k h out).chains = s.chains := by
  cases out <;> exact (answerSlot_chains _ _ _ _ _ _).1

/-- A member that heads a chain is answered as one in no chain, and then the cascade of its chain runs (R63). -/
theorem workMember_heads {w : Fin 24} {rest : List (Fin 32)} (hk : s.hold.slots[k].hold = some h) (hh : Heads s w h.req.tag rest) :
    State.workMember g s k = State.cascade w rest (State.workMember g (outOfChain s h.req.tag) k) := by
  have hk' : (outOfChain s h.req.tag).hold.slots[k].hold = some h := hk
  have hunlist : (outOfChain s h.req.tag).unlist g k = outOfChain (s.unlist g k) h.req.tag := rfl
  by_cases hp : ∃ p, Served s g h p
  · obtain ⟨p, hp⟩ := hp
    have hp' : Served (outOfChain s h.req.tag) g h p := hp
    obtain ⟨-, hchains, -⟩ := serve_fields (s.unlist g k) g p h.req
    rw [workMember_served hk hp, workMember_served hk' hp', advance_outOfChain, hunlist, serve_outOfChain, answerServed_outOfChain]
    exact advance_heads hh ((answerServed_chains _ _ _ _).trans hchains)
  · have hn := not_exists.mp hp
    have hn' : ∀ p, ¬ Served (outOfChain s h.req.tag) g h p := hn
    obtain ⟨hchains, -⟩ := answerSlot_chains (s.unlist g k) k h .fault [] .refused
    rw [workMember_faulted hk hn, workMember_faulted hk' hn', advance_outOfChain, hunlist, answerSlot_outOfChain]
    exact advance_heads hh hchains

end member

/-! ### The state with a list of slots answered (R122, R123, R126) -/

/-- The slots of a list freed, each with its outcome (R34). -/
def freedSlots (v : Vector Slot 16) (ks : List (Fin 16)) (o : Fin 16 → LastOutcome) : Vector Slot 16 :=
  tableMap (fun k x => if k ∈ ks then x.free (o k) else x) v

/-- The tags of a list FREE (R137). -/
def freedTags (v : Vector (Option TagEntry) 32) (ts : List (Fin 32)) : Vector (Option TagEntry) 32 :=
  tableMap (fun t e => if t ∈ ts then none else e) v

/-- Segment g with the slots of a list off its wait list, over bytes m. -/
def ImageStore.worked (i : ImageStore) (g : Fin 16) (ks : List (Fin 16)) (m : List Host.Cell) : ImageStore :=
  { bytes := m
    segments := i.segments.set g { i.segments[g] with waiting := i.segments[g].waiting.filter fun j => j ∉ ks } }

/-- The state in which the slots ks, which hold hs, are off the wait list of segment g and answered, with the bytes, notices and responses
that the answers leave. -/
def State.worked (s : State) (g : Fin 16) (hs : Fin 16 → Hold) (o : Fin 16 → LastOutcome) (ks : List (Fin 16)) (m : List Host.Cell)
    (q : NoticeQueue) (rs : List HostResponse) : State :=
  { s with
    image := s.image.worked g ks m
    host := { s.host with tags := freedTags s.host.tags (ks.map fun k => (hs k).req.tag), sent := s.host.sent ++ rs }
    hold := { s.hold with slots := freedSlots s.hold.slots ks o }
    notices := q }

/-- The slots ks hold hs, once each, and no chain has members. -/
structure Waiters (s : State) (hs : Fin 16 → Hold) (ks : List (Fin 16)) : Prop where
  nodup : ks.Nodup
  held : ∀ k ∈ ks, s.hold.slots[k].hold = some (hs k)
  alone : ∀ t : Fin 32, ∀ e ∈ s.host.tags[t], e.member = false

section list

variable {s : State} {g k : Fin 16} {hs : Fin 16 → Hold} {o : Fin 16 → LastOutcome} {ks rest : List (Fin 16)} {l : Live}

theorem freedSlots_get (v : Vector Slot 16) (ks : List (Fin 16)) (o : Fin 16 → LastOutcome) (k : Fin 16) :
    (freedSlots v ks o)[k] = if k ∈ ks then v[k].free (o k) else v[k] :=
  tableMap_get _ _ _

theorem freedTags_get (v : Vector (Option TagEntry) 32) (ts : List (Fin 32)) (t : Fin 32) :
    (freedTags v ts)[t] = if t ∈ ts then none else v[t] :=
  tableMap_get _ _ _

theorem freedSlots_cons (v : Vector Slot 16) (hk : k ∉ rest) :
    freedSlots v (k :: rest) o = freedSlots (v.set k (v[k].free (o k))) rest o := by
  refine table_ext fun j => ?_
  rw [freedSlots_get, freedSlots_get, table_set_get]
  by_cases hj : k = j
  · subst hj
    rw [if_pos List.mem_cons_self, if_neg hk, if_pos rfl]
  · simp only [List.mem_cons, Ne.symm hj, false_or, if_neg hj]

theorem freedTags_cons (v : Vector (Option TagEntry) 32) (t : Fin 32) (ts : List (Fin 32)) :
    freedTags v (t :: ts) = freedTags (v.set t none) ts := by
  refine table_ext fun u => ?_
  rw [freedTags_get, freedTags_get, table_set_get]
  by_cases hu : t = u
  · simp [hu]
  · simp only [List.mem_cons, Ne.symm hu, false_or, if_neg hu]

/-- The list of a segment without slot k, and then without the rest, is the list without all of them. -/
theorem filter_filter_cons (l : List (Fin 16)) (k : Fin 16) (rest : List (Fin 16)) :
    ((l.filter fun j => j ≠ k).filter fun j => j ∉ rest) = l.filter fun j => j ∉ k :: rest := by
  rw [List.filter_filter]
  refine List.filter_congr fun j _ => ?_
  simp [Bool.and_comm]

theorem image_worked_cons (i : ImageStore) (g k : Fin 16) (rest : List (Fin 16)) (m m' : List Host.Cell) :
    { i.setWaiting g (i.segments[g].waiting.filter fun j => j ≠ k) with bytes := m' }.worked g rest m = i.worked g (k :: rest) m := by
  simp only [ImageStore.worked, ImageStore.setWaiting]
  rw [table_set_get_self, table_set_set, filter_filter_cons]

/-- With no slot answered nothing changes. -/
theorem worked_nil (s : State) (g : Fin 16) (hs : Fin 16 → Hold) (o : Fin 16 → LastOutcome) :
    s.worked g hs o [] s.image.bytes s.notices [] = s := by
  have hslots : freedSlots s.hold.slots [] o = s.hold.slots := table_ext fun k => freedSlots_get _ _ _ k
  have htags : freedTags s.host.tags [] = s.host.tags := table_ext fun t => freedTags_get _ _ t
  have hfilter : (s.image.segments[g].waiting.filter fun j => j ∉ []) = s.image.segments[g].waiting :=
    List.filter_eq_self.mpr fun j _ => by simp
  have himage : s.image.worked g [] s.image.bytes = s.image := by
    rw [ImageStore.worked, hfilter, table_set_self]
  simp only [State.worked, himage, List.map_nil, hslots, htags, List.append_nil]

/-- Slot k off the wait list of segment g and answered, from bytes m and notices q. -/
def State.answerWaiter (s : State) (g k : Fin 16) (h : Hold) (m : List Host.Cell) (q : NoticeQueue) (st : HostStatus) (d : List Byte)
    (x : LastOutcome) : State :=
  { s with
    image := { s.image.setWaiting g (s.image.segments[g].waiting.filter fun j => j ≠ k) with bytes := m }
    host := responded s.host h.req.tag st d
    hold := freed s.hold k x
    notices := q.withdraw k }

variable {m m' : List Host.Cell} {q q' : NoticeQueue} {st : HostStatus} {d : List Byte} {x : LastOutcome} {h : Hold}

theorem answerWaiter_live : (s.answerWaiter g k h m q st d x).image.segments[g].live = s.image.segments[g].live :=
  setWaiting_live _ _ _ _

/-- The first slot of a list answered, and then the rest. -/
theorem answerWaiter_worked (hk : k ∉ rest) (hx : o k = x) (m : List Host.Cell) (q : NoticeQueue) (rs : List HostResponse) :
    (s.answerWaiter g k (hs k) m' q' st d x).worked g hs o rest m q rs =
      s.worked g hs o (k :: rest) m q ({ tag := (hs k).req.tag, status := st, data := d } :: rs) := by
  subst hx
  simp only [State.answerWaiter, State.worked, responded, freed, image_worked_cons, List.map_cons, freedTags_cons,
    freedSlots_cons _ hk, List.append_assoc, List.singleton_append]
  rfl

/-- Once the first slot has been answered, the rest hold what they held. -/
theorem Waiters.tail (hw : Waiters s hs (k :: rest)) : Waiters (s.answerWaiter g k (hs k) m q st d x) hs rest := by
  obtain ⟨hnodup, hheld, halone⟩ := hw
  obtain ⟨hk, hrest⟩ := List.nodup_cons.mp hnodup
  refine ⟨hrest, fun j hj => ?_, fun t e he => ?_⟩
  · have hne : k ≠ j := fun hkj => hk (hkj ▸ hj)
    have hslot : (s.answerWaiter g k (hs k) m q st d x).hold.slots[j] = s.hold.slots[j] := table_set_get_ne _ _ hne
    rw [hslot]
    exact hheld j (List.mem_cons_of_mem k hj)
  · have htag : (s.answerWaiter g k (hs k) m q st d x).host.tags[t] = if (hs k).req.tag = t then none else s.host.tags[t] :=
      table_set_get _ _ _ _
    rw [htag] at he
    split at he
    · cases he
    · exact halone t e he

theorem answerSlot_unlist (hk : s.hold.slots[k].hold = some h) (m : List Host.Cell) (q : NoticeQueue) :
    (((s.unlist g k).setImage { (s.unlist g k).image with bytes := m }).setNotices q).answerSlot k h st d x =
      s.answerWaiter g k h m q st d x :=
  answerSlot_held (s := ((s.unlist g k).setImage { (s.unlist g k).image with bytes := m }).setNotices q) hk st d x

/-- What serving a request does to the bytes, and the data that it gives (R123). -/
theorem serveBytes_eq (i : ImageStore) (a : Nat) (r : HostRequest) :
    i.serveBytes a r = if r.op = .write then writeEnabled i.bytes a r.data (writeFlags r) else i.bytes := by
  cases hop : r.op with
  | read => rw [serveBytes_read hop, if_neg (by decide)]
  | write => rw [serveBytes_write hop, if_pos rfl]

theorem serveData_eq (i : ImageStore) (a : Nat) (r : HostRequest) :
    i.serveData a r = if r.op = .read then readBytes i.bytes a r.len.toNat else [] := by
  cases hop : r.op with
  | read => rw [serveData_read hop, if_pos rfl]
  | write => rw [serveData_write hop, if_neg (by decide)]

/-! ### A wait list worked through (R116, R118, R126) -/

/-- A member within a READY segment is served from the bytes (R123). -/
theorem workMember_ready_within {p : Nat} (hw : Waiters s hs (k :: rest)) (hl : s.image.segments[g].live = some l)
    (hready : l.state = .ready) (hr : (hs k).decision.ruling = .serve g p) (hp : p + (hs k).req.len.toNat ≤ l.length) :
    State.workMember g s k =
      s.answerWaiter g k (hs k) (s.image.serveBytes (l.base + p) (hs k).req) s.notices .ok
        (s.image.serveData (l.base + p) (hs k).req) .served := by
  have hk := hw.held k List.mem_cons_self
  rw [workMember_served hk ⟨⟨l, hl, hready⟩, g, hr⟩, advance_plain _ (hw.alone _),
    serve_ready ((unlist_live s g k).trans hl) hready hp]
  exact answerSlot_unlist hk (s.image.serveBytes (l.base + p) (hs k).req) s.notices

/-- A member past a READY segment's length is FAULT, with an IMAGE_FAULT of cause RANGE (R123). -/
theorem workMember_ready_past {p : Nat} (hw : Waiters s hs (k :: rest)) (hl : s.image.segments[g].live = some l)
    (hready : l.state = .ready) (hr : (hs k).decision.ruling = .serve g p) (hp : l.length < p + (hs k).req.len.toNat) :
    State.workMember g s k =
      s.answerWaiter g k (hs k) s.image.bytes (s.notices.post (.imageFault g .range)) .fault [] .refused := by
  have hk := hw.held k List.mem_cons_self
  rw [workMember_served hk ⟨⟨l, hl, hready⟩, g, hr⟩, advance_plain _ (hw.alone _),
    serve_range ((unlist_live s g k).trans hl) hready hp]
  exact answerSlot_unlist hk s.image.bytes (s.notices.post (.imageFault g .range))

/-- A member of a segment that is not READY is FAULT (R126). -/
theorem workMember_not_ready (hw : Waiters s hs (k :: rest)) (hl : ∀ l ∈ s.image.segments[g].live, l.state ≠ .ready) :
    State.workMember g s k = s.answerWaiter g k (hs k) s.image.bytes s.notices .fault [] .refused := by
  have hk := hw.held k List.mem_cons_self
  rw [workMember_faulted hk fun p hp => ?_, advance_plain _ (hw.alone _)]
  · exact answerSlot_unlist hk s.image.bytes s.notices
  · obtain ⟨⟨l, hg, hready⟩, -⟩ := hp
    exact hl l hg hready

/-- The members of a READY segment are served in list order, each on the bytes as the members before it left them (R122, R123, R126). -/
theorem workMembers_ready {x : Fin 16 → Nat} (ks : List (Fin 16)) :
    ∀ s : State, Waiters s hs ks → s.image.segments[g].live = some { l with state := .ready } →
      (∀ k ∈ ks, (hs k).decision.ruling = .serve g (x k)) →
      let out := servedInOrder g l (ks.map fun k => (k, (hs k).req, x k)) s.image.bytes s.notices
      ks.foldl (State.workMember g) s =
        s.worked g hs (fun k => if x k + (hs k).req.len.toNat ≤ l.length then .served else .refused) ks out.1 out.2.1 out.2.2 := by
  induction ks with
  | nil => exact fun s _ _ _ => (worked_nil s g hs _).symm
  | cons k rest ih =>
    intro s hw hl hr
    have hk := (List.nodup_cons.mp hw.nodup).1
    have hrk := hr k List.mem_cons_self
    have hrest := fun j hj => hr j (List.mem_cons_of_mem k hj)
    rw [List.foldl_cons, List.map_cons, servedInOrder]
    split
    · rename_i hp
      rw [workMember_ready_within hw hl rfl hrk hp, ih _ hw.tail (answerWaiter_live.trans hl) hrest, serveBytes_eq,
        serveData_eq]
      exact answerWaiter_worked hk (if_pos hp) _ _ _
    · rename_i hp
      rw [workMember_ready_past hw hl rfl hrk (not_le.mp hp), ih _ hw.tail (answerWaiter_live.trans hl) hrest]
      exact answerWaiter_worked hk (if_neg hp) _ _ _

/-- The members of a segment that is not READY are FAULT, in list order (R118, R126). -/
theorem workMembers_not_ready (ks : List (Fin 16)) :
    ∀ s : State, Waiters s hs ks → (∀ l ∈ s.image.segments[g].live, l.state ≠ .ready) →
      ks.foldl (State.workMember g) s =
        s.worked g hs (fun _ => .refused) ks s.image.bytes (ks.foldl (fun q k => q.withdraw k) s.notices)
          (ks.map fun k => { tag := (hs k).req.tag, status := .fault, data := [] }) := by
  induction ks with
  | nil => exact fun s _ _ => (worked_nil s g hs _).symm
  | cons k rest ih =>
    intro s hw hl
    have hk := (List.nodup_cons.mp hw.nodup).1
    rw [List.foldl_cons, workMember_not_ready hw hl, ih _ hw.tail (answerWaiter_live.symm ▸ hl)]
    exact answerWaiter_worked hk rfl _ _ _

end list

/-! ### A segment that leaves LOADING (R116 to R119, R126) -/

/-- Segment g with another geometry and state, its wait list kept, and other notices. -/
def State.turned (s : State) (g : Fin 16) (x : Option Live) (q : NoticeQueue) : State :=
  (s.setImage (s.image.setLive g x)).setNotices q

section turned

variable {s : State} {g : Fin 16} {l : Live} {x : Option Live} {q : NoticeQueue} {crc : Word32} {seq : Byte}

theorem turned_live (s : State) (g : Fin 16) (x : Option Live) (q : NoticeQueue) : (s.turned g x q).image.segments[g].live = x :=
  (setLive_live _ _ _ _).trans (if_pos rfl)

/-- With every slot of it off, the list is empty. -/
theorem worked_setLive (i : ImageStore) (g : Fin 16) (x : Option Live) (m : List Host.Cell) :
    (i.setLive g x).worked g i.segments[g].waiting m = { bytes := m, segments := i.segments.set g { live := x, waiting := [] } } := by
  have hfilter : (i.segments[g].waiting.filter fun j => j ∉ i.segments[g].waiting) = [] :=
    List.filter_eq_nil_iff.mpr fun j hj => by simpa using hj
  simp only [ImageStore.worked, ImageStore.setLive]
  rw [table_set_get_self, table_set_set, hfilter]

theorem workThrough_turned (s : State) (g : Fin 16) (x : Option Live) (q : NoticeQueue) :
    (s.turned g x q).workThrough g = s.image.segments[g].waiting.foldl (State.workMember g) (s.turned g x q) :=
  congrArg (List.foldl (State.workMember g) (s.turned g x q)) (setLive_waiting s.image g g)

/-- A steady operation does not touch the port. -/
theorem Steady.setPort {f : State → State} (hf : Steady f) (s : State) (p : ServicePort) : f (s.setPort p) = (f s).setPort p := by
  obtain ⟨hstall, -, hpin⟩ := hf.keeps s
  have hframe : ∀ t : State, t.setPort p = t.framed t.host.stalled p t.resetn := fun _ => rfl
  rw [hframe, hframe, hstall, hpin, hf]

theorem steady_workThrough (g : Fin 16) : Steady fun s => s.workThrough g := fun s x p n => workThrough_framed s x p n g

theorem judge_ready (h : s.image.crcOf l = crc) : s.judge g l crc = s.turned g (some { l with state := .ready }) s.notices := by
  rw [State.judge, if_pos h]
  rfl

theorem judge_failed (h : s.image.crcOf l ≠ crc) :
    s.judge g l crc = s.turned g (some { l with state := .failed }) (s.notices.post (.imageFault g .crc)) := by
  rw [State.judge, if_neg h]
  rfl

/-- The completion of scheck judges the segment, works its wait list through, and replies (R116, R126). -/
theorem exec_scheckCompletion_open (hr : s.resetn = .high) (hs : s.host.stalled = none)
    (hp : s.port.phase = .busy (.scheck seq g crc)) (hl : s.image.segments[g].live = some l) (hjudge : s.judge g l crc = s.turned g x q) :
    exec .scheckCompletion s = .next
      { s.image.segments[g].waiting.foldl (State.workMember g) (s.turned g x q) with
        port := completed s.port 0x52 seq .done
          ((if s.image.crcOf l = crc then LiveState.ready.code else LiveState.failed.code) ::
            (le 4 (s.image.crcOf l).toNat ++ [BitVec.ofNat 8 s.image.segments[g].waiting.length])) } := by
  obtain ⟨hstall, hport, -⟩ := (steady_workThrough g).keeps (s.turned g x q)
  rw [exec_scheckCompletion, running_high hr, ← workThrough_turned]
  simp only [completeScheck, hp, hl, hjudge, reportFreeing_open _ (hstall.trans hs), State.makeReady, hport]
  rfl

/-- With the CRC given the segment is READY (R116). -/
theorem exec_scheckCompletion_ready (hr : s.resetn = .high) (hs : s.host.stalled = none)
    (hp : s.port.phase = .busy (.scheck seq g crc)) (hl : s.image.segments[g].live = some l) (hcrc : s.image.crcOf l = crc) :
    exec .scheckCompletion s = .next
      { s.image.segments[g].waiting.foldl (State.workMember g) (s.turned g (some { l with state := .ready }) s.notices) with
        port := completed s.port 0x52 seq .done
          (0x02 :: (le 4 (s.image.crcOf l).toNat ++ [BitVec.ofNat 8 s.image.segments[g].waiting.length])) } := by
  rw [exec_scheckCompletion_open hr hs hp hl (judge_ready hcrc), if_pos hcrc]
  rfl

/-- With another CRC it is FAILED, and one IMAGE_FAULT is posted (R116). -/
theorem exec_scheckCompletion_failed (hr : s.resetn = .high) (hs : s.host.stalled = none)
    (hp : s.port.phase = .busy (.scheck seq g crc)) (hl : s.image.segments[g].live = some l) (hcrc : s.image.crcOf l ≠ crc) :
    exec .scheckCompletion s = .next
      { s.image.segments[g].waiting.foldl (State.workMember g)
          (s.turned g (some { l with state := .failed }) (s.notices.post (.imageFault g .crc))) with
        port := completed s.port 0x52 seq .done
          (0x03 :: (le 4 (s.image.crcOf l).toNat ++ [BitVec.ofNat 8 s.image.segments[g].waiting.length])) } := by
  rw [exec_scheckCompletion_open hr hs hp hl (judge_failed hcrc), if_neg hcrc]
  rfl

/-- An immediate command whose body works the wait list of segment g through and reports the freeings (R117, R119, R126). -/
theorem exec_turned (ha : Accepts s) (hs : s.host.stalled = none) (n : Nat) (c : Command) {body : State → Answer} {d : List Byte}
    (hb : ∀ p : ServicePort, body (s.setPort p) =
      ⟨.done, d, (((s.setPort p).turned g x q).workThrough g).reportFreeing (s.setPort p)⟩) :
    running s (fun s => s.takeFrame n fun s => s.immediately c seq body) = .next
      { s.image.segments[g].waiting.foldl (State.workMember g) (s.turned g x q) with
        port := replied s.port n (commandCode c) seq .done d } := by
  refine (immediate_next ha n c seq body (r := .done) (d := d) (t := (s.turned g x q).workThrough g) ((hb _).trans ?_)).trans ?_
  · have hturned : (s.setPort (handling s.port n)).turned g x q = (s.turned g x q).setPort (handling s.port n) := rfl
    obtain ⟨hstall, -, -⟩ := (steady_workThrough g).keeps (s.turned g x q)
    rw [hturned, (steady_workThrough g).setPort, reportFreeing_open]
    exact hstall.trans hs
  · rw [workThrough_turned]
    rfl

/-- sabort of a LOADING segment (R117, R118). -/
theorem sabortBody_loading (hl : s.image.segments[g].live = some l) (hload : l.state = .loading) :
    sabortBody [indexByte g] s =
      ⟨.done, [BitVec.ofNat 8 s.image.segments[g].waiting.length],
        ((s.turned g (some { l with state := .failed }) (s.notices.post (.imageFault g .aborted))).workThrough g).reportFreeing s⟩ := by
  simp only [sabortBody, indexOf_indexByte (show 16 ≤ 256 by decide) g, hl, hload]
  rfl

/-- sfree of a segment that no window refers to and for which requests wait (R119). -/
theorem sfreeBody_waited (hl : s.image.segments[g].live = some l) (hw : s.image.segments[g].waiting ≠ [])
    (hf : s.windows.firstReferring g = none) :
    sfreeBody [indexByte g] s =
      ⟨.done, [BitVec.ofNat 8 s.image.segments[g].waiting.length],
        ((s.turned g none (s.notices.post (.imageFault g .freed))).workThrough g).reportFreeing s⟩ := by
  simp only [sfreeBody, indexOf_indexByte (show 16 ≤ 256 by decide) g, hf, hl, if_neg hw]
  rfl

theorem exec_sabort_loading (ha : Accepts s) (hs : s.host.stalled = none) (hl : s.image.segments[g].live = some l)
    (hload : l.state = .loading) :
    exec (.sabort seq [indexByte g]) s = .next
      { s.image.segments[g].waiting.foldl (State.workMember g)
          (s.turned g (some { l with state := .failed }) (s.notices.post (.imageFault g .aborted))) with
        port := replied s.port 5 0x53 seq .done [BitVec.ofNat 8 s.image.segments[g].waiting.length] } := by
  rw [exec_sabort]
  exact exec_turned ha hs 5 .sabort fun p => sabortBody_loading (s := s.setPort p) hl hload

/-- A window refers to a segment where it is enabled, uses SERVE and names the segment (R119). -/
theorem refersTo_iff {r : WindowRecord} :
    r.refersTo g = true ↔ r.enabled = true ∧ r.usesServe = true ∧ ∃ y ∈ r.segment, y.segment = g := by
  simp [WindowRecord.refersTo, and_assoc]

/-- Where no window of either table refers to a segment, the search finds none (R119). -/
theorem firstReferring_eq_none {t : WindowTable} (h : ∀ i : Fin 24, t.staged[i].refersTo g = false ∧ t.active[i].refersTo g = false) :
    t.firstReferring g = none := by
  have hnone : (List.finRange 24).find? (fun i => t.staged[i].refersTo g || t.active[i].refersTo g) = none :=
    findFin_none.mpr fun i => by rw [(h i).1, (h i).2]; rfl
  rw [WindowTable.firstReferring, hnone]

theorem exec_sfree_waited (ha : Accepts s) (hs : s.host.stalled = none) (hl : s.image.segments[g].live = some l)
    (hw : s.image.segments[g].waiting ≠ []) (hf : s.windows.firstReferring g = none) :
    exec (.sfree seq [indexByte g]) s = .next
      { s.image.segments[g].waiting.foldl (State.workMember g) (s.turned g none (s.notices.post (.imageFault g .freed))) with
        port := replied s.port 5 0x54 seq .done [BitVec.ofNat 8 s.image.segments[g].waiting.length] } := by
  rw [exec_sfree]
  exact exec_turned ha hs 5 .sfree fun p => sfreeBody_waited (s := s.setPort p) hl hw hf

end turned

/-- Settles O38, by induction on the wait list; a member that heads a chain by the equation of one member. -/
theorem readySegmentServesItsWaiter : Obligations.ReadySegmentServesItsWaiter := by
  refine ⟨?_, fun g k h w rest s hk hh => workMember_heads hk hh, ?_⟩
  · intro seq g crc l hs x s hr hp hl hopen halone ks hnodup hheld computed after
    have hwait : ∀ y q, Waiters (s.turned g y q) hs ks := fun y q => ⟨hnodup, fun k hk => (hheld k hk).1, halone⟩
    refine ⟨fun hcrc => ?_, fun hcrc => ?_⟩
    · have hready := workMembers_ready ks _ (hwait _ s.notices) (turned_live s g (some { l with state := .ready }) s.notices)
        fun k hk => (hheld k hk).2
      have hexec := exec_scheckCompletion_ready hr hopen hp hl hcrc
      rw [hready] at hexec
      refine ⟨_, hexec, worked_setLive .., rfl, hopen, fun u => freedTags_get _ _ u, fun k => ?_, rfl, rfl, rfl⟩
      simp only [decide_eq_true_eq]
      exact freedSlots_get _ _ _ k
    · have hfailed := workMembers_not_ready ks _ (hwait (some { l with state := .failed }) (s.notices.post (.imageFault g .crc)))
        (by rw [turned_live]; rintro _ ⟨⟩; nofun)
      have hexec := exec_scheckCompletion_failed hr hopen hp hl hcrc
      rw [hfailed] at hexec
      exact ⟨_, hexec, worked_setLive .., rfl, hopen, fun u => freedTags_get _ _ u, fun k => freedSlots_get _ _ _ k, rfl, rfl, rfl⟩
  · intro seq g l s hr hs hl ks n turned worked
    refine ⟨fun crc hp => ⟨exec_scheckCompletion_ready hr hs hp hl, exec_scheckCompletion_failed hr hs hp hl⟩,
      fun ha hload => exec_sabort_loading ha hs hl hload, fun ha hw href => exec_sfree_waited ha hs hl hw ?_⟩
    refine firstReferring_eq_none fun i => ⟨?_, ?_⟩
    · rw [← Bool.not_eq_true, refersTo_iff]
      exact href i _ List.mem_cons_self
    · rw [← Bool.not_eq_true, refersTo_iff]
      exact href i _ (List.mem_cons_of_mem _ List.mem_cons_self)

end Sys2Proof.Machine
end

section
/-! The flags of a frame and the payload of an hfwd: what is written is read back (R187, R192). -/

namespace Sys2Proof.Machine

open Claims

/-! ### Packed flags (R187) -/

/-- Bit i of a packed byte is flag i of its first eight, and clear where there is none. -/
theorem packByte_getLsbD (l : List Bool) (i : Nat) : (packByte l).getLsbD i = (decide (i < 8) && l.getD i false) := by
  have hbit : (l.foldr (fun (f : Bool) n => f.toNat + 2 * n) 0).testBit i = l.getD i false := by
    induction l generalizing i with
    | nil => simp
    | cons f rest ih =>
      have hcons : ∀ n, f.toNat + 2 * n = Nat.bit f n := fun n => by rw [Nat.bit_val, Nat.add_comm]
      rw [List.foldr_cons, hcons]
      cases i with
      | zero => simp
      | succ i => simpa [Nat.testBit_bit_succ] using ih i
  rw [packByte, BitVec.getLsbD_ofNat, hbit]

@[simp] theorem packFlags_length (l : List Bool) : (packFlags l).length = flagBytes l.length := by simp [packFlags]

/-- A list of flags is read back from its packed bytes (R187). -/
theorem unpackFlags_packFlags (l : List Bool) : unpackFlags l.length (packFlags l) = l := by
  apply List.ext_getElem
  · simp [unpackFlags]
  · intro k _ hk
    have hbyte : k / 8 < flagBytes l.length := by rw [flagBytes]; omega
    have hpacked : (packFlags l).getD (k / 8) 0 = packByte ((l.drop (8 * (k / 8))).take 8) := by
      rw [List.getD_eq_getElem _ _ (by simpa using hbyte)]
      simp [packFlags]
    have hmod : k % 8 < 8 := Nat.mod_lt _ (by decide)
    have hplace : 8 * (k / 8) + k % 8 = k := Nat.div_add_mod k 8
    simp only [unpackFlags, List.getElem_map, List.getElem_range, hpacked, packByte_getLsbD]
    simp [hmod, hplace, hk]

/-- At most 128 flags in 16 bytes, padded with 0x00 (R192). -/
theorem packFlags_padded {l : List Bool} (h : l.length ≤ 128) :
    packFlags l ++ List.replicate (16 - (packFlags l).length) 0 =
      (List.range 16).map fun i => packByte ((l.drop (8 * i)).take 8) := by
  have hbytes : flagBytes l.length ≤ 16 := by rw [flagBytes]; omega
  apply List.ext_getElem
  · simp; omega
  · intro i _ _
    by_cases hi : i < flagBytes l.length
    · rw [List.getElem_append_left (by simpa using hi)]
      simp [packFlags]
    · have hnone : l.drop (8 * i) = [] := List.drop_eq_nil_of_le (by rw [flagBytes] at hi; omega)
      rw [List.getElem_append_right (by simpa using hi)]
      simp only [List.getElem_replicate, List.getElem_map, List.getElem_range, hnone]
      rfl

/-! ### The parts of an hfwd (R192) -/

/-- The mask part of an hfwd is read back, with the bytes after it. -/
theorem fwdMask_packFlags {m : List Bool} (hm : m.length ≤ 255) (b : List Byte) :
    fwdMask (BitVec.ofNat 8 m.length :: (packFlags m ++ b)) = some (m, b) := by
  have hcount : (BitVec.ofNat 8 m.length).toNat = m.length := by rw [BitVec.toNat_ofNat]; omega
  have htake : (packFlags m ++ b).take (flagBytes m.length) = packFlags m := List.take_left' (packFlags_length m)
  have hdrop : (packFlags m ++ b).drop (flagBytes m.length) = b := List.drop_left' (packFlags_length m)
  simp only [fwdMask, hcount, htake, hdrop, unpackFlags_packFlags]
  rw [if_pos ⟨by simp, trivial⟩]

/-- The selector of an hfwd names its parts, and its other bits are clear. -/
theorem selector_bits (a m d : Bool) :
    let sel := packByte [a, m, d]
    sel.getLsbD 0 = a ∧ sel.getLsbD 1 = m ∧ sel.getLsbD 2 = d ∧ sel.toNat < 8 := by
  revert a m d
  decide

/-- The parts of an hfwd are read back from its payload. -/
theorem fwdParts_fwdPayload {a : Option Addr} {m : Option (List Bool)} {d : Option (List Byte)} (hm : ∀ x ∈ m, x.length ≤ 255)
    {sel : Byte} {b : List Byte} (hb : fwdPayload a m d = sel :: b) : fwdParts sel b = some ⟨a.map BitVec.toNat, m, d⟩ := by
  obtain ⟨rfl, rfl⟩ := List.cons.inj hb
  obtain ⟨haddr, hmask, hdata, hsel⟩ := selector_bits a.isSome m.isSome d.isSome
  have hback : ∀ x : Addr, fromLE (le 5 x.toNat) = x.toNat := fun x => fromLE_le 5 x.toNat x.isLt
  have htake : ∀ x : Nat, (le 5 x).take 5 = le 5 x := fun x => List.take_of_length_le (le_length 5 x).le
  rw [fwdParts, if_neg (Nat.not_le.mpr hsel)]
  simp only [haddr, hmask, hdata]
  cases m with
  | none => cases a <;> cases d <;> simp [htake, hback]
  | some m =>
    have hflags := fwdMask_packFlags (hm m rfl)
    have hlast : fwdMask (BitVec.ofNat 8 m.length :: packFlags m) = some (m, []) := by simpa using hflags []
    cases a <;> cases d <;> simp [hback, hflags, hlast]

end Sys2Proof.Machine
end

section
/-! The slot, use and reason checks that every decision makes before its own, and the statement about them (R68 to R70). -/

namespace Sys2Proof.Machine

open Claims

/-! ### The checks (R69, R70) -/

section checks

variable {s : State} {k : Fin 16} {h : Hold} {u slot : Byte}

/-- A slot byte outside 0 to 15 is INVALID before any other check (R69). -/
theorem withCurrent_outside (hs : 16 ≤ slot.toNat) (d : Bool) (f : Fin 16 → Hold → Answer) :
    s.withCurrent slot u d f = s.answers .invalid [] := by
  simp only [State.withCurrent, indexOf_eq_none.mpr hs]

/-- A command that names a current hold reaches its own checks (R69). -/
theorem withCurrent_current (hk : s.hold.slots[k].hold = some h) (d : Bool) (f : Fin 16 → Hold → Answer) :
    s.withCurrent (indexByte k) s.hold.slots[k].use d f = f k h := by
  simp only [State.withCurrent, indexOf_indexByte (show 16 ≤ 256 by decide) k, hk, if_true]

/-- Any other command that names a slot is LATE or STALE, and shows the slot (R69). -/
theorem withCurrent_stale (hk : s.hold.slots[k].hold = none ∨ s.hold.slots[k].use ≠ u) (d : Bool) (f : Fin 16 → Hold → Answer) :
    s.withCurrent (indexByte k) u d f =
      s.answers (if d = true ∧ u = s.hold.slots[k].use - 1 ∧ s.hold.slots[k].last = .expired then .late else .stale)
        s.hold.slots[k].shown := by
  simp only [State.withCurrent, indexOf_indexByte (show 16 ≤ 256 by decide) k, Bool.and_eq_true, decide_eq_true_eq, and_assoc]
  cases hh : s.hold.slots[k].hold with
  | none => rfl
  | some h =>
    have huse : s.hold.slots[k].use ≠ u := hk.resolve_left (by rw [hh]; nofun)
    exact if_neg huse.symm

theorem withDefer_stale (hk : s.hold.slots[k].hold = none ∨ s.hold.slots[k].use ≠ u) (f : Fin 16 → Hold → Answer) :
    s.withDefer (indexByte k) u f =
      s.answers (if u = s.hold.slots[k].use - 1 ∧ s.hold.slots[k].last = .expired then .late else .stale)
        s.hold.slots[k].shown :=
  (withCurrent_stale hk true _).trans (by simp only [true_and])

/-- A current hold for IMAGE_WAIT or ORDER is no supervisor's to decide (R70). -/
theorem withDefer_wrongState (hk : s.hold.slots[k].hold = some h) (hr : h.reason ≠ .defer) (f : Fin 16 → Hold → Answer) :
    s.withDefer (indexByte k) s.hold.slots[k].use f = s.answers .wrongState [h.reason.code] :=
  (withCurrent_current hk true _).trans (if_neg hr)

end checks

/-! ### The decisions that make them -/

/-- A command's body begins with the slot, use and reason checks of a decision (R68 to R70). -/
def ChecksFirst (slot u : Byte) (body : State → Answer) : Prop := ∀ s, ∃ f, body s = s.withDefer slot u f

section decisions

variable (slot u : Byte)

theorem hdataBody_checks {d : List Byte} (hd : d.length ≤ 158) : ChecksFirst slot u (hdataBody (slot :: u :: d)) :=
  fun _ => ⟨_, if_neg (Nat.not_lt.mpr hd)⟩

theorem hdoneBody_checks {d : List Byte} (hd : d.length ≤ 158) : ChecksFirst slot u (hdoneBody (slot :: u :: d)) :=
  fun _ => ⟨_, if_neg (Nat.not_lt.mpr hd)⟩

theorem hrefuseBody_checks (st : Byte) : ChecksFirst slot u (hrefuseBody [slot, u, st]) := fun _ => ⟨_, rfl⟩

theorem hrenewBody_checks : ChecksFirst slot u (hrenewBody [slot, u]) := fun _ => ⟨_, rfl⟩

/-- hfwd's own checks and effect, for its parts and the hold they are for (R76, R77). -/
def State.fwdAnswer (s : State) (p : FwdParts) (k : Fin 16) (h : Hold) : Answer :=
  if h.req.op = .write && !p.fits h.req.len.toNat then s.answers .badLength [h.req.len]
  else if h.req.op = .read && (p.mask.isSome || p.data.isSome) then s.answers .invalid []
  else if p.addr.any fun a => !inOneBlock a h.req.len.toNat then s.answers .invalid []
  else s.decided (s.forwardSlot k h (p.entry h) .forwarded)

/-- An hfwd of a well-formed payload is decided by the parts it was written from (R192). -/
theorem hfwdBody_fwdPayload {a : Option Addr} {m : Option (List Bool)} {d : Option (List Byte)} (hm : ∀ x ∈ m, x.length ≤ 255)
    (hl : (fwdPayload a m d).length ≤ 158) (s : State) :
    hfwdBody (slot :: u :: fwdPayload a m d) s = s.withDefer slot u (s.fwdAnswer ⟨a.map BitVec.toNat, m, d⟩) := by
  obtain ⟨sel, b, hb⟩ : ∃ sel b, fwdPayload a m d = sel :: b := ⟨_, _, rfl⟩
  have hparts := fwdParts_fwdPayload hm hb
  rw [hb] at hl ⊢
  have hfits : ¬ Config.maxPayload < (slot :: u :: sel :: b).length := Nat.not_lt.mpr (Nat.add_le_add_right hl 2)
  simp only [hfwdBody, if_neg hfits, hparts]
  cases a <;> rfl

theorem hfwdBody_checks {a : Option Addr} {m : Option (List Bool)} {d : Option (List Byte)} (hm : ∀ x ∈ m, x.length ≤ 255)
    (hl : (fwdPayload a m d).length ≤ 158) : ChecksFirst slot u (hfwdBody (slot :: u :: fwdPayload a m d)) :=
  fun s => ⟨_, hfwdBody_fwdPayload slot u hm hl s⟩

end decisions

section refused

variable {s : State} {k : Fin 16} {h : Hold} {u : Byte} {body : State → Answer}

/-- A decision that names no current hold (R69). -/
theorem ChecksFirst.stale (hb : ChecksFirst (indexByte k) u body) (ha : Accepts s)
    (hk : s.hold.slots[k].hold = none ∨ s.hold.slots[k].use ≠ u) (n : Nat) (c : Command) (q : Byte) :
    running s (fun s => s.takeFrame n fun s => s.immediately c q body) =
      .next { s with
        port := replied s.port n (commandCode c) q
          (if u = s.hold.slots[k].use - 1 ∧ s.hold.slots[k].last = .expired then .late else .stale) s.hold.slots[k].shown } := by
  obtain ⟨f, hf⟩ := hb (s.setPort (handling s.port n))
  exact immediate_answers ha n c q (hf.trans (withDefer_stale (s := s.setPort (handling s.port n)) hk f))

/-- A decision that names a current hold of a reason other than DEFER (R70). -/
theorem ChecksFirst.wrongState (hb : ChecksFirst (indexByte k) s.hold.slots[k].use body) (ha : Accepts s)
    (hk : s.hold.slots[k].hold = some h) (hr : h.reason ≠ .defer) (n : Nat) (c : Command) (q : Byte) :
    running s (fun s => s.takeFrame n fun s => s.immediately c q body) =
      .next { s with
        port := replied s.port n (commandCode c) q .wrongState [if h.reason = .imageWait then 0x02 else 0x03] } := by
  have hcode : h.reason.code = if h.reason = .imageWait then 0x02 else 0x03 := by
    cases hx : h.reason with
    | defer => exact absurd hx hr
    | imageWait => rfl
    | order => rfl
  obtain ⟨f, hf⟩ := hb (s.setPort (handling s.port n))
  rw [← hcode]
  exact immediate_answers ha n c q (hf.trans (withDefer_wrongState (s := s.setPort (handling s.port n)) hk hr f))

end refused

/-! ### A slot byte out of range (R69) -/

section outside

variable (s : State) {slot : Byte} (u : Byte) (rest : List Byte) (hs : 16 ≤ slot.toNat)

include hs

theorem hreadBody_outside : hreadBody (slot :: u :: rest) s = s.answers .invalid [] := by
  rcases rest with _ | ⟨part, _ | _⟩
  case cons.nil => exact withCurrent_outside hs false _
  all_goals rfl

theorem hdataBody_outside : hdataBody (slot :: u :: rest) s = s.answers .invalid [] := by
  simp only [hdataBody, State.withDefer, withCurrent_outside hs, ite_self]

theorem hdoneBody_outside : hdoneBody (slot :: u :: rest) s = s.answers .invalid [] := by
  simp only [hdoneBody, State.withDefer, withCurrent_outside hs, ite_self]

theorem hfwdBody_outside : hfwdBody (slot :: u :: rest) s = s.answers .invalid [] := by
  cases rest with
  | nil => rfl
  | cons sel b =>
    simp only [hfwdBody]
    cases if Config.maxPayload < (slot :: u :: sel :: b).length then none else fwdParts sel b with
    | none => rfl
    | some p => exact withCurrent_outside hs true _

theorem hrefuseBody_outside : hrefuseBody (slot :: u :: rest) s = s.answers .invalid [] := by
  rcases rest with _ | ⟨st, _ | _⟩
  case cons.nil => exact withCurrent_outside hs true _
  all_goals rfl

theorem hrenewBody_outside : hrenewBody (slot :: u :: rest) s = s.answers .invalid [] := by
  cases rest with
  | nil => exact withCurrent_outside hs true _
  | cons => rfl

end outside

/-- hread of no current hold is STALE, also where a decision is LATE (R69). -/
theorem hreadBody_stale {s : State} {k : Fin 16} {u : Byte} (hk : s.hold.slots[k].hold = none ∨ s.hold.slots[k].use ≠ u) (part : Byte) :
    hreadBody [indexByte k, u, part] s = s.answers .stale s.hold.slots[k].shown :=
  (withCurrent_stale hk false _).trans (by simp only [Bool.false_eq_true, false_and, if_false])

/-- Settles O23: every decision makes the slot, use and reason checks before its own. -/
theorem onlyCurrentDeferHoldsAreDecided : Obligations.OnlyCurrentDeferHoldsAreDecided := by
  refine ⟨fun q u s ha => ⟨fun k hk => ?_, fun slot rest hs => ?_⟩, fun q k h s ha hk hr => ?_⟩
  · refine ⟨fun part => ?_, fun d hd => ?_, fun d hd => ?_, fun a m d hm hl => ?_, fun st => ?_, ?_⟩
    · exact immediate_answers ha 7 .hread q (hreadBody_stale (s := s.setPort (handling s.port 7)) hk part)
    · exact (hdataBody_checks _ u hd).stale ha hk _ .hdata q
    · exact (hdoneBody_checks _ u hd).stale ha hk _ .hdone q
    · exact (hfwdBody_checks _ u hm hl).stale ha hk _ .hfwd q
    · exact (hrefuseBody_checks _ u st).stale ha hk 7 .hrefuse q
    · exact (hrenewBody_checks _ u).stale ha hk 6 .hrenew q
  · refine ⟨?_, ?_, ?_, ?_, ?_, ?_⟩
    · exact immediate_answers ha _ .hread q (hreadBody_outside _ u rest hs)
    · exact immediate_answers ha _ .hdata q (hdataBody_outside _ u rest hs)
    · exact immediate_answers ha _ .hdone q (hdoneBody_outside _ u rest hs)
    · exact immediate_answers ha _ .hfwd q (hfwdBody_outside _ u rest hs)
    · exact immediate_answers ha _ .hrefuse q (hrefuseBody_outside _ u rest hs)
    · exact immediate_answers ha _ .hrenew q (hrenewBody_outside _ u rest hs)
  · refine ⟨fun d hd => ?_, fun d hd => ?_, fun a m d hm hl => ?_, fun st => ?_, ?_⟩
    · exact (hdataBody_checks _ _ hd).wrongState ha hk hr _ .hdata q
    · exact (hdoneBody_checks _ _ hd).wrongState ha hk hr _ .hdone q
    · exact (hfwdBody_checks _ _ hm hl).wrongState ha hk hr _ .hfwd q
    · exact (hrefuseBody_checks _ _ st).wrongState ha hk hr 7 .hrefuse q
    · exact (hrenewBody_checks _ _).wrongState ha hk hr 6 .hrenew q

end Sys2Proof.Machine
end

section
/-! hread of a current hold: its record, byte by byte, or its data, and the statement about it (R71, R73, R192). -/

namespace Sys2Proof.Machine

open Claims

section hread

variable {s : State} {k : Fin 16} {h : Hold}

theorem hreadBody_record (hk : s.hold.slots[k].hold = some h) :
    hreadBody [indexByte k, s.hold.slots[k].use, 0x00] s = s.answers .done (holdRecord k s.hold.slots[k] h) :=
  withCurrent_current hk false _

theorem hreadBody_data (hk : s.hold.slots[k].hold = some h) (ho : h.req.op = .write) :
    hreadBody [indexByte k, s.hold.slots[k].use, 0x01] s = s.answers .done h.req.data :=
  (withCurrent_current hk false _).trans (by simp only [if_true, ho])

theorem hreadBody_wrongKind (hk : s.hold.slots[k].hold = some h) (ho : h.req.op = .read) :
    hreadBody [indexByte k, s.hold.slots[k].use, 0x01] s = s.answers .wrongKind [0x00] :=
  (withCurrent_current hk false _).trans (by simp only [if_true, ho]; rfl)

theorem hreadBody_invalid (hk : s.hold.slots[k].hold = some h) {part : Byte} (h0 : part ≠ 0x00) (h1 : part ≠ 0x01) :
    hreadBody [indexByte k, s.hold.slots[k].use, part] s = s.answers .invalid [] :=
  (withCurrent_current hk false _).trans (by simp only [if_neg h0, if_neg h1])

end hread

/-- The presence byte of a hold record is the sum of its flags (R192). -/
theorem presence_sum (a b c : Bool) :
    packByte [a, b, c] = (if a then 1 else 0) + (if b then 2 else 0) + (if c then 4 else 0) := by
  revert a b c
  decide

/-- An image offset that does not fit its five bytes shows as the largest that does (R192). -/
theorem shownOffset_eq (p : Nat) : shownOffset p = if p < 2 ^ 40 then p else 2 ^ 40 - 1 := by
  unfold shownOffset
  split <;> omega

/-- Settles O24: the record's fields in the layout of R192, its mask in 16 bytes. -/
theorem hreadReturnsTheHold : Obligations.HreadReturnsTheHold := by
  intro q k h s ha hk reads answer x
  let z := s.setPort (handling s.port 7)
  have hrecord : reads 0x00 = answer .done (holdRecord k x h) :=
    immediate_answers ha 7 .hread q (hreadBody_record (s := z) hk)
  refine ⟨hrecord, fun hm => ?_, fun ho => ?_, fun ho => ?_, fun part h0 h1 => ?_⟩
  · have hmask : (h.req.mask.getD []).length ≤ 128 := by
      cases hx : h.req.mask with
      | none => exact Nat.zero_le 128
      | some m => exact hm m hx
    have hop : opCode h.req.op = if h.req.op = .read then 0x00 else 0x01 := by cases h.req.op <;> rfl
    have hact : h.decision.expiryAction.code = if h.decision.expiryAction = .expire then 0x00 else 0x01 := by
      cases h.decision.expiryAction <;> rfl
    rw [hrecord, holdRecord, packFlags_padded hmask, presence_sum, hop, hact]
    cases h.decision.ruling with
    | serve g p =>
      simp only [Ruling.imageBytes, shownOffset_eq]
      cases h.deadline <;> rfl
    | _ => cases h.deadline <;> rfl
  · exact immediate_answers ha 7 .hread q (hreadBody_data (s := z) hk ho)
  · exact immediate_answers ha 7 .hread q (hreadBody_wrongKind (s := z) hk ho)
  · exact immediate_answers ha 7 .hread q (hreadBody_invalid (s := z) hk h0 h1)

end Sys2Proof.Machine
end

section
/-! The decisions that answer the host, and the one that sends the request on, each outcome of a current hold for DEFER, and the
statements about them (R71 to R78). -/

namespace Sys2Proof.Machine

open Claims

/-! ### hdata, hdone and hrefuse (R72, R74, R75, R78) -/

/-- Data within the layout of hdata and hdone (R189). -/
theorem data_fits {d : List Byte} (hl : d.length ≤ 158) : ¬ maxDecisionData < d.length := Nat.not_lt.mpr hl

section answers

variable {s : State} {k : Fin 16} {h : Hold} {d : List Byte} (hk : s.hold.slots[k].hold = some h) (hr : h.reason = .defer)

include hk hr

theorem hdataBody_answers (ho : h.req.op = .read) (hd : d.length = h.req.len.toNat) (hl : d.length ≤ 158) :
    hdataBody (indexByte k :: s.hold.slots[k].use :: d) s = s.decided (s.endHold k h .ok d .answered) := by
  rw [hdataBody, if_neg (data_fits hl), withDefer_current _ (indexOf_indexByte (by decide) k) hk hr,
    if_neg (by rw [ho]; nofun), if_neg (not_not.mpr hd)]

theorem hdataBody_badLength (ho : h.req.op = .read) (hd : d.length ≠ h.req.len.toNat) (hl : d.length ≤ 158) :
    hdataBody (indexByte k :: s.hold.slots[k].use :: d) s = s.answers .badLength [h.req.len] := by
  rw [hdataBody, if_neg (data_fits hl), withDefer_current _ (indexOf_indexByte (by decide) k) hk hr,
    if_neg (by rw [ho]; nofun), if_pos hd]

theorem hdataBody_wrongKind (ho : h.req.op = .write) (hl : d.length ≤ 158) :
    hdataBody (indexByte k :: s.hold.slots[k].use :: d) s = s.answers .wrongKind [0x01] := by
  rw [hdataBody, if_neg (data_fits hl), withDefer_current _ (indexOf_indexByte (by decide) k) hk hr, if_pos ho, ho]
  rfl

theorem hdoneBody_badLength (ho : h.req.op = .write) (hd : d ≠ []) (hl : d.length ≤ 158) :
    hdoneBody (indexByte k :: s.hold.slots[k].use :: d) s = s.answers .badLength [h.req.len] := by
  rw [hdoneBody, if_neg (data_fits hl), withDefer_current _ (indexOf_indexByte (by decide) k) hk hr,
    if_neg (by rw [ho]; nofun), if_pos hd]

theorem hdoneBody_wrongKind (ho : h.req.op = .read) (hl : d.length ≤ 158) :
    hdoneBody (indexByte k :: s.hold.slots[k].use :: d) s = s.answers .wrongKind [0x00] := by
  rw [hdoneBody, if_neg (data_fits hl), withDefer_current _ (indexOf_indexByte (by decide) k) hk hr, if_pos ho, ho]
  rfl

theorem hrefuseBody_fault :
    hrefuseBody [indexByte k, s.hold.slots[k].use, 0x03] s = s.decided (s.endHold k h .fault [] .refused) :=
  withDefer_current _ (indexOf_indexByte (by decide) k) hk hr

theorem hrefuseBody_invalid {st : Byte} (h1 : st ≠ 0x01) (h3 : st ≠ 0x03) :
    hrefuseBody [indexByte k, s.hold.slots[k].use, st] s = s.answers .invalid [] :=
  (withDefer_current _ (indexOf_indexByte (by decide) k) hk hr).trans ((if_neg h1).trans (if_neg h3))

end answers

/-- With no request withheld, the end of a hold in no chain is the hold's answer alone (R72). -/
theorem decided_endHold {s : State} {k : Fin 16} {h : Hold} (hk : s.hold.slots[k].hold = some h) (hp : Plain s h.req.tag)
    (st : HostStatus) (d : List Byte) (o : LastOutcome) :
    s.decided (s.endHold k h st d o) = ⟨.done, [], ended s k h st d o s.port⟩ := by
  obtain ⟨hopen, htag⟩ := hp
  have hend : s.endHold k h st d o = ended s k h st d o s.port := (advance_plain _ htag).trans (answerSlot_held hk st d o)
  have hstall : (ended s k h st d o s.port).host.stalled = none := hopen
  rw [State.decided, hend, reportFreeing_open _ hstall]

/-- A decision that ends a hold in no chain, with the link OPEN, and the port replies (R72). -/
theorem immediate_ended {s : State} {k : Fin 16} {h : Hold} (ha : Accepts s) (hk : s.hold.slots[k].hold = some h)
    (hp : Plain s h.req.tag) (n : Nat) (c : Command) (q : Byte) {body : State → Answer} {st : HostStatus} {d : List Byte}
    {o : LastOutcome}
    (hb : body (s.setPort (handling s.port n)) =
      (s.setPort (handling s.port n)).decided ((s.setPort (handling s.port n)).endHold k h st d o)) :
    running s (fun s => s.takeFrame n fun s => s.immediately c q body) =
      .next (ended s k h st d o (replied s.port n (commandCode c) q .done [])) :=
  immediate_next (t := ended s k h st d o s.port) ha n c q body
    (hb.trans (decided_endHold (s := s.setPort (handling s.port n)) hk hp st d o))

/-- Settles O25: each decision's own checks, and the end of the hold where they pass. -/
theorem decisionsAnswerTheHost : Obligations.DecisionsAnswerTheHost := by
  rintro q u k h s ha ⟨hk, rfl, hr⟩ hp
  refine ⟨fun d hl => ?_, ?_, ?_, fun st h1 h3 => ?_⟩
  · let z := s.setPort (handling s.port (d.length + 6))
    refine ⟨fun ho hd => ?_, fun ho hd => ?_, fun ho => ?_, fun ho hd => ?_, fun ho hd => ?_, fun ho => ?_⟩
    · exact immediate_ended ha hk hp _ .hdata q (hdataBody_answers (s := z) hk hr ho hd hl)
    · exact immediate_answers ha _ .hdata q (hdataBody_badLength (s := z) hk hr ho hd hl)
    · exact immediate_answers ha _ .hdata q (hdataBody_wrongKind (s := z) hk hr ho hl)
    · subst hd
      exact immediate_ended ha hk hp 6 .hdone q (hdoneBody_write (s := z) hk hr ho)
    · exact immediate_answers ha _ .hdone q (hdoneBody_badLength (s := z) hk hr ho hd hl)
    · exact immediate_answers ha _ .hdone q (hdoneBody_wrongKind (s := z) hk hr ho hl)
  · obtain ⟨hopen, htag⟩ := hp
    exact exec_hrefuse_open ha ⟨hk, rfl, hr⟩ hopen htag
  · exact immediate_ended ha hk hp 7 .hrefuse q (hrefuseBody_fault (s := s.setPort (handling s.port 7)) hk hr)
  · exact immediate_answers ha 7 .hrefuse q (hrefuseBody_invalid (s := s.setPort (handling s.port 7)) hk hr h1 h3)

/-! ### hfwd (R76, R77) -/

/-- The counts an hfwd gives are the request's length where its mask and its data each have it (R76). -/
theorem fits_iff {p : FwdParts} {n : Nat} : p.fits n = true ↔ (∀ x ∈ p.mask, x.length = n) ∧ ∀ x ∈ p.data, x.length = n := by
  rcases p with ⟨a, _ | m, _ | d⟩ <;> simp [FwdParts.fits]

theorem inOneBlock_iff {a : Addr} {n : Nat} : inOneBlock a.toNat n = true ↔ oneBlock a n := decide_eq_true_iff

/-- A replacement address fails its check where its bytes leave one block (R76). -/
theorem outOfBlock_iff {a : Option Addr} {n : Nat} :
    ((a.map BitVec.toNat).any fun x => !inOneBlock x n) = true ↔ ¬ ∀ x ∈ a, oneBlock x n := by
  cases a <;> simp [← inOneBlock_iff]

section forwards

variable {s : State} {k : Fin 16} {h : Hold} {p : FwdParts}

theorem fwdAnswer_badLength (ho : h.req.op = .write) (hf : ¬ p.fits h.req.len.toNat = true) :
    s.fwdAnswer p k h = s.answers .badLength [h.req.len] := by
  simp [State.fwdAnswer, ho, hf]

theorem fwdAnswer_read_parts (ho : h.req.op = .read) (hp : p.mask ≠ none ∨ p.data ≠ none) :
    s.fwdAnswer p k h = s.answers .invalid [] := by
  simp [State.fwdAnswer, ho, Option.isSome_iff_ne_none, hp]

/-- The parts of an hfwd suit a request: a WRITE's counts are its length, and a READ has no mask and no data (R71, R76). -/
def FwdParts.Suits (p : FwdParts) (r : HostRequest) : Prop :=
  (r.op = .write → p.fits r.len.toNat = true) ∧ (r.op = .read → p.mask = none ∧ p.data = none)

theorem suits_of_write (ho : h.req.op = .write) (hf : p.fits h.req.len.toNat = true) : p.Suits h.req :=
  ⟨fun _ => hf, fun hread => absurd (ho.symm.trans hread) nofun⟩

theorem suits_of_read (ho : h.req.op = .read) (hm : p.mask = none) (hd : p.data = none) : p.Suits h.req :=
  ⟨fun hwrite => absurd (ho.symm.trans hwrite) nofun, fun _ => ⟨hm, hd⟩⟩

/-- Parts that suit the request leave the address to be checked (R76). -/
theorem fwdAnswer_suits (hp : p.Suits h.req) :
    s.fwdAnswer p k h =
      if p.addr.any fun a => !inOneBlock a h.req.len.toNat then s.answers .invalid []
      else s.decided (s.forwardSlot k h (p.entry h) .forwarded) := by
  obtain ⟨hwrite, hread⟩ := hp
  cases ho : h.req.op with
  | read => simp [State.fwdAnswer, ho, hread ho]
  | write => simp [State.fwdAnswer, ho, hwrite ho]

/-- A request sent on with the link OPEN, and the port replies (R77). -/
theorem immediate_forwarded (ha : Accepts s) (hk : s.hold.slots[k].hold = some h) (hopen : s.host.stalled = none) (n : Nat)
    (c : Command) (q : Byte) {body : State → Answer} {e : IssueEntry} {o : LastOutcome}
    (hb : body (s.setPort (handling s.port n)) =
      (s.setPort (handling s.port n)).decided ((s.setPort (handling s.port n)).forwardSlot k h e o)) :
    running s (fun s => s.takeFrame n fun s => s.immediately c q body) =
      .next ((s.forwardSlot k h e o).setPort (replied s.port n (commandCode c) q .done [])) := by
  have hport : (s.setPort (handling s.port n)).forwardSlot k h e o = (s.forwardSlot k h e o).setPort (handling s.port n) := by
    rw [forwardSlot_held hk, forwardSlot_held (s := s.setPort (handling s.port n)) hk]
    rfl
  have hstall : ((s.forwardSlot k h e o).setPort (handling s.port n)).host.stalled = none := by
    rw [forwardSlot_held hk]
    exact hopen
  refine immediate_next ha n c q body (hb.trans ?_)
  rw [State.decided, hport, reportFreeing_open _ hstall]

end forwards

/-- The issue queue entry with the replacements given (R77). -/
theorem entry_eq (a : Option Addr) (m : Option (List Bool)) (d : Option (List Byte)) (h : Hold) :
    FwdParts.entry ⟨a.map BitVec.toNat, m, d⟩ h =
      { tag := h.req.tag
        op := h.req.op
        addr := a.getD h.decision.downstream
        len := h.req.len
        mask := if m.isSome then m else h.req.mask
        data := d.getD h.req.data } := by
  cases a <;> cases m <;> simp [FwdParts.entry]

/-- Settles O26: the parts are read back from the payload, and suit the request or are refused; where they suit it, the address decides. -/
theorem hfwdQueuesTheRequest : Obligations.HfwdQueuesTheRequest := by
  rintro q u k h a m d s ha ⟨hk, rfl, hr⟩ hopen hm hl p counts inBlock refused queued
  let parts : FwdParts := ⟨a.map BitVec.toNat, m, d⟩
  let z := s.setPort (handling s.port (frameLength p))
  have hbody : hfwdBody p z = z.fwdAnswer parts k h :=
    (hfwdBody_fwdPayload _ _ hm hl z).trans (withDefer_current (s := z) _ (indexOf_indexByte (by decide) k) hk hr)
  have hrefused : ∀ {r : Result} {x : List Byte}, z.fwdAnswer parts k h = z.answers r x → exec (.hfwd q p) s = refused r x :=
    fun hx => immediate_answers ha _ .hfwd q (hbody.trans hx)
  have houtside : parts.Suits h.req → ¬ inBlock → exec (.hfwd q p) s = refused .invalid [] := fun hsuits hout =>
    hrefused ((fwdAnswer_suits hsuits).trans (if_pos (outOfBlock_iff.mpr hout)))
  have hqueued : parts.Suits h.req → inBlock → exec (.hfwd q p) s = queued := by
    intro hsuits hin
    have hforward := (fwdAnswer_suits (s := z) (k := k) hsuits).trans (if_neg fun hout => outOfBlock_iff.mp hout hin)
    refine (immediate_forwarded ha hk hopen _ .hfwd q (hbody.trans hforward)).trans ?_
    rw [forwardSlot_held hk, entry_eq]
    rfl
  refine ⟨fun ho hc hin => ?_, fun ho hmask hdata hin => ?_, fun ho hc => ?_, fun ho hc hout => ?_, fun ho hbad => ?_⟩
  · exact hqueued (suits_of_write ho (fits_iff.mpr hc)) hin
  · exact hqueued (suits_of_read ho hmask hdata) hin
  · exact hrefused (fwdAnswer_badLength ho fun hf => hc (fits_iff.mp hf))
  · exact houtside (suits_of_write ho (fits_iff.mpr hc)) hout
  · by_cases hnone : m = none ∧ d = none
    · obtain ⟨hmask, hdata⟩ := hnone
      exact houtside (suits_of_read ho hmask hdata) (hbad.resolve_left (absurd hmask)|>.resolve_left (absurd hdata))
    · exact hrefused (fwdAnswer_read_parts ho (not_and_or.mp hnone))

end Sys2Proof.Machine
end

section
/-! The operations of the notice queue, outcome by outcome, and the statement about them: what a posted event merges into, and what a
withdrawal takes out (R88 to R91, R93, R101). -/

namespace Sys2Proof.Machine

/-! ### The first entry of a kind (R91) -/

/-- The first entry of a kind counts the occurrence, wherever it stands. -/
theorem mergeKind_first {c : Kind} {a : List Notice} (ha : ∀ m ∈ a, m.detail.kind ≠ c) {n : Notice} (hn : n.detail.kind = c)
    (b : List Notice) : mergeKind c (a ++ n :: b) = some (a ++ n.bump :: b) := by
  induction a with
  | nil => exact if_pos hn
  | cons m rest ih =>
    obtain ⟨hm, hrest⟩ := List.forall_mem_cons.mp ha
    rw [List.cons_append, mergeKind, if_neg hm, ih hrest]
    rfl

/-- Among entries of other kinds there is none to merge into. -/
theorem mergeKind_eq_none {c : Kind} {l : List Notice} (hl : ∀ m ∈ l, m.detail.kind ≠ c) : mergeKind c l = none := by
  induction l with
  | nil => rfl
  | cons m rest ih =>
    obtain ⟨hm, hrest⟩ := List.forall_mem_cons.mp hl
    rw [mergeKind, if_neg hm, ih hrest]
    rfl

/-! ### The first HOLD notice of a slot (R93) -/

/-- The first HOLD notice of a slot is taken out, wherever it stands, and those behind it count one less. -/
theorem dropHold_first {k : Fin 16} {a : List Notice} (ha : ∀ m ∈ a, m.isHoldOf k = false) {n : Notice} (hn : n.isHoldOf k = true)
    (b : List Notice) : dropHold k (a ++ n :: b) = some (a ++ b.map fun m => { m with seq := m.seq - 1 }) := by
  induction a with
  | nil => exact if_pos hn
  | cons m rest ih =>
    obtain ⟨hm, hrest⟩ := List.forall_mem_cons.mp ha
    rw [List.cons_append, dropHold, if_neg (Bool.eq_false_iff.mp hm), ih hrest]
    rfl

/-- Among entries that are no HOLD notice of the slot there is none to take out. -/
theorem dropHold_eq_none {k : Fin 16} {l : List Notice} (hl : ∀ m ∈ l, m.isHoldOf k = false) : dropHold k l = none := by
  induction l with
  | nil => rfl
  | cons m rest ih =>
    obtain ⟨hm, hrest⟩ := List.forall_mem_cons.mp hl
    rw [dropHold, if_neg (Bool.eq_false_iff.mp hm), ih hrest]
    rfl

/-! ### Posting and withdrawing -/

namespace NoticeQueue

variable {q : NoticeQueue} {a b : List Notice} {n : Notice}

theorem post_merges {d : Detail} (hq : q.unpresented = a ++ n :: b) (hn : n.detail.kind = d.kind)
    (ha : ∀ m ∈ a, m.detail.kind ≠ d.kind) : q.post d = { q with entries := q.fixed ++ a ++ n.bump :: b } := by
  simp only [post, hq, mergeKind_first ha hn, List.append_assoc]

theorem post_appends {d : Detail} (hq : ∀ m ∈ q.unpresented, m.detail.kind ≠ d.kind) : q.post d = q.append d := by
  simp only [post, mergeKind_eq_none hq]

/-- A queue with an entry appended asserts ATTN (R101). -/
theorem append_eq (q : NoticeQueue) (d : Detail) :
    q.append d =
      { q with
        entries := q.entries ++ [{ seq := q.counter, count := 1, detail := d }]
        counter := q.counter + 1
        attn := true } := by
  have hattn : (!(q.entries ++ [({ seq := q.counter, count := 1, detail := d } : Notice)]).isEmpty) = true := by simp
  rw [append, withEntries, hattn]

theorem withdraw_absent {k : Fin 16} (hq : ∀ m ∈ q.unpresented, m.isHoldOf k = false) : q.withdraw k = q := by
  simp only [withdraw, dropHold_eq_none hq]

theorem withdraw_first {k : Fin 16} (hq : q.unpresented = a ++ n :: b) (hn : n.isHoldOf k = true)
    (ha : ∀ m ∈ a, m.isHoldOf k = false) :
    q.withdraw k =
      { q.withEntries (q.fixed ++ a ++ b.map fun m => { m with seq := m.seq - 1 }) with counter := q.counter - 1 } := by
  simp only [withdraw, hq, dropHold_first ha hn, List.append_assoc]

end NoticeQueue

/-- Settles O33: the first unpresented entry of the kind, or of the slot, decides what posting and withdrawing do. -/
theorem noticesMergeAppendAndWithdraw : Obligations.NoticesMergeAppendAndWithdraw := by
  refine ⟨fun q d _ => ⟨fun a b n hq hn ha => ?_, fun hq => ?_⟩, NoticeQueue.append_eq, fun q k hq => ?_, fun q k a b n hq hn ha => ?_⟩
  · exact NoticeQueue.post_merges hq hn ha
  · exact (NoticeQueue.post_appends hq).trans (q.append_eq d)
  · exact NoticeQueue.withdraw_absent hq
  · exact NoticeQueue.withdraw_first hq hn ha

end Sys2Proof.Machine
end

section
/-! Notices fetched and acknowledged: what nfetch and nack answer, what becomes of the hold that a HOLD notice names, and the statements about
them (R95, R97, R98, R101, R193). -/

namespace Sys2Proof.Machine

open Claims

/-! ### The hold that a notice names (R95, R98, log 22) -/

section marking

variable {s : State} {k : Fin 16} {u : Byte} {d : Detail}

/-- An event notice names no hold. -/
theorem markHold_event (s : State) (hd : d.kind ≠ .hold) (x : NoticeState) : s.markHold d x = s := by
  cases d with
  | hold => exact absurd rfl hd
  | _ => rfl

theorem markHold_current {h : Hold} (hk : s.hold.slots[k].hold = some h) (hu : s.hold.slots[k].use = u) (op : Op) (w : Fin 24)
    (a : Addr) (len : Byte) (x : NoticeState) :
    s.markHold (.hold k u op w a len) x = { s with hold := heldSlot s.hold k { h with notice := x } } := by
  simp only [State.markHold, hk, if_pos hu]
  rfl

/-- The hold that a notice named has ended: its slot is FREE, or under another use. -/
theorem markHold_ended (hk : s.hold.slots[k].hold = none ∨ s.hold.slots[k].use ≠ u) (op : Op) (w : Fin 24) (a : Addr) (len : Byte)
    (x : NoticeState) : s.markHold (.hold k u op w a len) x = s := by
  cases hh : s.hold.slots[k].hold with
  | none => simp only [State.markHold, hh]
  | some h =>
    have hu : s.hold.slots[k].use ≠ u := hk.resolve_left (hh ▸ Option.some_ne_none h)
    simp only [State.markHold, hh, if_neg hu]

/-- What an event that tells the hold of a notice leaves: only a HOLD notice of a current hold changes anything. -/
theorem next_markHold {o : Host.Outcome State Fault Refusal} {x : NoticeState} (ho : o = .next (s.markHold d x)) :
    (d.kind ≠ .hold → o = .next s) ∧
    ∀ k u op w a len, d = .hold k u op w a len →
      (∀ h, s.hold.slots[k].hold = some h → s.hold.slots[k].use = u →
        o = .next { s with hold := heldSlot s.hold k { h with notice := x } }) ∧
      ((s.hold.slots[k].hold = none ∨ s.hold.slots[k].use ≠ u) → o = .next s) := by
  subst ho
  refine ⟨fun hd => ?_, fun k u op w a len hd => ⟨fun h hk hu => ?_, fun hk => ?_⟩⟩
  · rw [markHold_event s hd]
  · rw [hd, markHold_current hk hu]
  · rw [hd, markHold_ended hk]

/-- Marking the hold neither reads nor writes the port. -/
theorem markHold_setPort (s : State) (p : ServicePort) (d : Detail) (x : NoticeState) :
    (s.setPort p).markHold d x = (s.markHold d x).setPort p := by
  have h := markHold_framed (s := s) s.host.stalled p s.resetn d x
  have hm := markHold_framed (s := s) s.host.stalled s.port s.resetn d x
  rw [framed_self] at hm
  rw [hm]
  exact h

end marking

/-- A command that replaces the notice queue and tells the hold that a notice names, and the port replies. -/
theorem immediate_marks {s : State} (ha : Accepts s) (m : Nat) (c : Command) (q : Byte) {body : State → Answer} {r : Result}
    {shown : List Byte} {x : NoticeQueue} {d : Detail} {st : NoticeState}
    (hb : body (s.setPort (handling s.port m)) = ⟨r, shown, ((s.setPort (handling s.port m)).setNotices x).markHold d st⟩) :
    running s (fun s => s.takeFrame m fun s => s.immediately c q body) =
      .next (({ s with notices := x, port := replied s.port m (commandCode c) q r shown } : State).markHold d st) := by
  have hnext := immediate_next (t := (s.setNotices x).markHold d st) ha m c q body
    (hb.trans (congrArg _ (markHold_setPort (s.setNotices x) _ d st)))
  rw [← markHold_setPort] at hnext
  exact hnext

/-! ### nfetch (R95) -/

section nfetch

variable {s : State} {n : Notice} {rest : List Notice}

theorem nfetchBody_empty (he : s.notices.entries = []) : nfetchBody [] s = s.answers .empty (le 2 s.notices.counter.toNat) := by
  simp [nfetchBody, he]

theorem nfetchBody_presented (he : s.notices.entries = n :: rest) (hp : s.notices.presented = true) :
    nfetchBody [] s = s.answers .done (n.encode ++ [BitVec.ofNat 8 (rest.length + 1)]) := by
  simp [nfetchBody, he, hp]

theorem nfetchBody_presents (he : s.notices.entries = n :: rest) (hp : s.notices.presented = false) :
    nfetchBody [] s =
      ⟨.done, n.encode ++ [BitVec.ofNat 8 (rest.length + 1)],
        (s.setNotices { s.notices with presented := true }).markHold n.detail .presented⟩ := by
  simp [nfetchBody, he, hp]

theorem nfetchBody_invalid {p : List Byte} (hp : p ≠ []) : nfetchBody p s = s.answers .invalid [] := if_pos hp

end nfetch

/-! ### The record of a notice (R87, R193) -/

theorem opCode_eq (o : Op) : opCode o = if o = .read then 0x00 else 0x01 := by
  cases o <;> rfl

theorem ExpiryAction.code_eq (x : ExpiryAction) : x.code = if x = .expire then 0x00 else 0x01 := by
  cases x <;> rfl

theorem ReqCause.code_eq (c : ReqCause) : c.code = if c = .malformed then 0x01 else 0x02 := by
  cases c <;> rfl

/-- Settles O31: the head is shown, and an unpresented one is marked in the queue and in its hold. -/
theorem nfetchPresentsTheHead : Obligations.NfetchPresentsTheHead := by
  intro q s ha
  refine ⟨fun he => ?_, fun n rest he => ⟨fun hp => ?_, fun hp => ?_⟩, fun n => ?_, fun p hp => ?_⟩
  · exact immediate_answers ha 4 .nfetch q (nfetchBody_empty (s := s.setPort _) he)
  · exact immediate_answers ha 4 .nfetch q (nfetchBody_presented (s := s.setPort _) he hp)
  · intro t
    have hexec : exec (.nfetch q []) s = .next (t.markHold n.detail .presented) :=
      immediate_marks ha 4 .nfetch q (nfetchBody_presents (s := s.setPort _) he hp)
    exact next_markHold hexec
  · rw [Notice.encode, List.append_assoc, List.append_assoc]
    refine congrArg _ ?_
    cases n.detail with
    | hold => rw [Detail.encode, opCode_eq]; rfl
    | expiry => rw [Detail.encode, ExpiryAction.code_eq]; rfl
    | reqError => rw [Detail.encode, ReqCause.code_eq]; rfl
    | imageFault g c => cases c <;> rfl
    | memoryFault m o => cases o <;> rfl
    | _ => rfl
  · exact immediate_answers ha (p.length + 4) .nfetch q (nfetchBody_invalid hp)

/-! ### nack (R97, R98) -/

section nack

variable {s : State} {n : Notice} {rest : List Notice}

theorem nackBody_empty (he : s.notices.entries = []) (v : Word16) :
    nackBody (le 2 v.toNat) s = s.answers .mismatch (le 2 s.notices.counter.toNat ++ [0x00]) := by
  simp only [nackBody, le, he, NoticeQueue.shownHead]

/-- The head leaves exactly where it is presented under the number given (R97). -/
theorem nackBody_head (he : s.notices.entries = n :: rest) (v : Word16) :
    nackBody (le 2 v.toNat) s =
      if s.notices.presented = true ∧ n.seq = v then
        ⟨.done, [BitVec.ofNat 8 rest.length], (s.setNotices s.notices.removeHead).markHold n.detail .none⟩
      else s.answers .mismatch (le 2 n.seq.toNat ++ [if s.notices.presented = true then 0x02 else 0x01]) := by
  have hv : fromLE (le 2 v.toNat) = v.toNat := fromLE_le 2 _ v.isLt
  have hnumber : (s.notices.presented && decide (fromLE (le 2 v.toNat) = n.seq.toNat)) = true ↔
      s.notices.presented = true ∧ n.seq = v := by
    rw [hv, Bool.and_eq_true, decide_eq_true_iff, BitVec.toNat_inj, eq_comm (a := v)]
  simp only [nackBody, le, he, NoticeQueue.shownHead]
  exact if_congr hnumber rfl rfl

theorem nackBody_invalid {p : List Byte} (hp : p.length ≠ 2) : nackBody p s = s.answers .invalid [] := by
  unfold nackBody
  split
  · exact absurd rfl hp
  · rfl

/-- The queue without its head is what stood behind it, unpresented (R97, R101). -/
theorem NoticeQueue.removeHead_cons {q : NoticeQueue} (he : q.entries = n :: rest) :
    q.removeHead = { q with entries := rest, presented := false, attn := !rest.isEmpty } := by
  rw [removeHead, withEntries, he]
  rfl

end nack

/-- Settles O32: a number that is the presented head's removes it and tells its hold, and nothing else does. -/
theorem nackRemovesThePresentedHead : Obligations.NackRemovesThePresentedHead := by
  intro q v s ha
  refine ⟨fun he => ?_, fun n rest he => ?_, fun p hp => ?_⟩
  · exact immediate_answers ha 6 .nack q (nackBody_empty (s := s.setPort (handling s.port 6)) he v)
  · intro t
    have hbody := nackBody_head (s := s.setPort (handling s.port 6)) he v
    refine ⟨fun hp hv => ?_, fun hbad => ?_⟩
    · have hexec : exec (.nack q (le 2 v.toNat)) s = .next (t.markHold n.detail .none) := by
        refine immediate_marks ha 6 .nack q ((hbody.trans (if_pos ⟨hp, hv⟩)).trans ?_)
        rw [NoticeQueue.removeHead_cons (q := (s.setPort (handling s.port 6)).notices) he]
        rfl
      exact next_markHold hexec
    · refine immediate_answers ha 6 .nack q (hbody.trans (if_neg ?_))
      rintro ⟨hp, hv⟩
      exact hbad.elim (fun h => Bool.false_ne_true (h.symm.trans hp)) (absurd hv)
  · exact immediate_answers ha (p.length + 4) .nack q (nackBody_invalid hp)

end Sys2Proof.Machine
end

section
/-! The law of the image store is kept by every move, and so by every step: geometries in range and apart, and the bytes in canonical form
(R107 to R110, log 16). -/

namespace Sys2Proof.Machine

/-- The two laws of the image store: its geometries' and its bytes' (R108, R110, log 16). -/
abbrev ImageStore.Safe (m : ImageStore) : Prop := m.Geometry ∧ Memory.wf m.bytes = true

/-- A segment covers none of a range exactly where its own lies before or behind it (R110). -/
theorem Segment.covers_eq_false {x : Segment} {base length : Nat} :
    x.covers base length = false ↔ ∀ l ∈ x.live, base + length ≤ l.base ∨ l.base + l.length ≤ base := by
  unfold Segment.covers
  cases x.live with
  | none => simp
  | some l =>
    simp only [Option.mem_some_iff, forall_eq', Bool.and_eq_false_iff, decide_eq_false_iff_not, Nat.not_lt]

section geometry

variable {m m' : ImageStore} {g : Fin 16} {l : Live}

/-- The geometries' law speaks of nothing but the segments' geometries. -/
theorem ImageStore.Geometry.of_live (h : m.Geometry) (hl : ∀ j : Fin 16, m'.segments[j].live = m.segments[j].live) :
    m'.Geometry := by
  simpa only [ImageStore.Geometry, Segment.covers, hl] using h

/-- A geometry in range that every other segment keeps clear of may be given to a segment. -/
theorem ImageStore.Geometry.setLive_some (h : m.Geometry) (hf : rangeFits l.base l.length = true) (hc : l.cursor ≤ l.length)
    (hapart : ∀ j : Fin 16, g ≠ j → m.segments[j].covers l.base l.length = false) : (m.setLive g (some l)).Geometry := by
  obtain ⟨hfits, hpairs⟩ := h
  refine ⟨fun i x hx => ?_, fun i j hij x hx => Segment.covers_eq_false.mpr fun y hy => ?_⟩
  · rw [setLive_live] at hx
    split at hx
    · cases hx
      exact ⟨hf, hc⟩
    · exact hfits i x hx
  · rw [setLive_live] at hx hy
    by_cases hi : g = i
    · rw [if_pos hi] at hx
      rw [if_neg fun hj => hij (hi.symm.trans hj)] at hy
      cases hx
      exact Segment.covers_eq_false.mp (hapart j (hi ▸ hij)) y hy
    · rw [if_neg hi] at hx
      by_cases hj : g = j
      · rw [if_pos hj] at hy
        cases hy
        exact (Segment.covers_eq_false.mp (hapart i hi) x hx).symm
      · rw [if_neg hj] at hy
        exact Segment.covers_eq_false.mp (hpairs i j hij x hx) y hy

/-- A segment keeps its range through a change of its state and cursor. -/
theorem ImageStore.Geometry.setLive_same (h : m.Geometry) (hl : m.segments[g].live = some l) {x : Live} (hb : x.base = l.base)
    (hn : x.length = l.length) (hc : x.cursor ≤ x.length) : (m.setLive g (some x)).Geometry := by
  refine h.setLive_some ?_ hc fun j hj => ?_
  · rw [hb, hn]
    exact (h.1 g l hl).1
  · rw [hb, hn]
    exact h.2 g j hj l hl

/-- A segment that becomes EMPTY leaves the other geometries as they were. -/
theorem ImageStore.Geometry.setLive_none (h : m.Geometry) (g : Fin 16) : (m.setLive g none).Geometry := by
  obtain ⟨hfits, hpairs⟩ := h
  have hlive : ∀ j : Fin 16, ∀ x ∈ (m.setLive g none).segments[j].live, m.segments[j].live = some x := by
    intro j x hx
    rw [setLive_live] at hx
    split at hx
    · cases hx
    · exact hx
  exact ⟨fun i x hx => hfits i x (hlive i x hx), fun i j hij x hx =>
    Segment.covers_eq_false.mpr fun y hy => Segment.covers_eq_false.mp (hpairs i j hij x (hlive i x hx)) y (hlive j y hy)⟩

/-- The image store of the power-on state is lawful: every segment is EMPTY and no byte is listed (R130). -/
theorem imageSafe_reset : State.reset.image.Safe :=
  ⟨⟨fun g l hl => by simp [State.reset] at hl, fun g j _ l hl => by simp [State.reset] at hl⟩, memory_wf_nil⟩

end geometry

/-- Every move keeps the laws of the image store. -/
theorem move_keeps_imageSafe {s t : State} (hm : Move s t) (h : s.image.Safe) : t.image.Safe := by
  have hs := h
  obtain ⟨hgeo, hbytes⟩ := h
  cases hm with
  | host | issue | chains | port | pending | post | present | remove | clear | freeQuiet | order | defer | renew | mark
  | elapse | timeout | timeouts | stage | unstage | stageDefault | statistics | count | commit | clearWindows => exact hs
  | free k o =>
    unfold State.freeSlot
    split <;> exact hs
  | wait k x g => exact ⟨hgeo.of_live fun j => setWaiting_live _ g j _, hbytes⟩
  | waits m hb hl => exact ⟨hgeo.of_live hl, hb.symm ▸ hbytes⟩
  | bytes a r => exact ⟨hgeo, serveBytes_wf hbytes a r⟩
  | load g base length hf hg =>
    refine ⟨?_, hbytes⟩
    obtain ⟨-, hfree⟩ | ⟨l, hl, rfl, rfl⟩ := hg
    · exact hgeo.setLive_some hf (Nat.zero_le _) fun j _ => hfree j
    · exact hgeo.setLive_same hl rfl rfl (Nat.zero_le _)
  | data g l d hl hd => exact ⟨hgeo.setLive_same hl rfl rfl hd, writeBytes_wf hbytes _ d⟩
  | judge g l n hl => exact ⟨hgeo.setLive_same hl rfl rfl (hgeo.1 g l hl).2, hbytes⟩
  | drop g => exact ⟨hgeo.setLive_none g, hbytes⟩
  | clearImage | power => exact imageSafe_reset

/-- Settles O56: a step is a sequence of moves, and each keeps the image store's laws. -/
theorem imageStaysLawful : Obligations.ImageStaysLawful := fun _ _ hgeo hbytes hstep =>
  Moves.keeps (P := fun s => s.image.Safe) (fun _ _ => move_keeps_imageSafe) (step_moves hstep) ⟨hgeo, hbytes⟩

end Sys2Proof.Machine
end

section
/-! The port's law, and the power-on state under RESETn low, are kept by every step (R115, R170, R179, R185). -/

namespace Sys2Proof.Machine

/-! ### What traffic leaves alone -/

/-- An update that touches neither port nor pin, nor any segment's geometry, state and cursor. -/
structure Calm (s t : State) : Prop where
  port : t.port = s.port
  pin : t.resetn = s.resetn
  live : ∀ g : Fin 16, t.image.segments[g].live = s.image.segments[g].live

section calm

variable {s t u : State}

theorem Calm.refl (s : State) : Calm s s := ⟨rfl, rfl, fun _ => rfl⟩

theorem Calm.trans (h : Calm s t) (h' : Calm t u) : Calm s u :=
  ⟨h'.port.trans h.port, h'.pin.trans h.pin, fun g => (h'.live g).trans (h.live g)⟩

theorem calm_post (s : State) (d : Detail) : Calm s (s.post d) := ⟨rfl, rfl, fun _ => rfl⟩

theorem calm_setHost (s : State) (x : HostLink) : Calm s (s.setHost x) := ⟨rfl, rfl, fun _ => rfl⟩

theorem calm_setIssue (s : State) (x : IssueUnit) : Calm s (s.setIssue x) := ⟨rfl, rfl, fun _ => rfl⟩

theorem calm_setHold (s : State) (x : HoldTable) : Calm s (s.setHold x) := ⟨rfl, rfl, fun _ => rfl⟩

theorem calm_setChains (s : State) (x : Vector (List (Fin 32)) 24) : Calm s (s.setChains x) := ⟨rfl, rfl, fun _ => rfl⟩

/-- Wait lists replaced leave every segment's geometry. -/
theorem relisted_live (v : Vector Segment 16) (f : Segment → List (Fin 16)) (g : Fin 16) :
    (tableMap (fun _ x => ({ x with waiting := f x } : Segment)) v)[g].live = v[g].live := by
  rw [tableMap_get]

theorem calm_leaveLists (s : State) (k : Fin 16) : Calm s (s.setImage (s.image.leaveLists k)) :=
  ⟨rfl, rfl, relisted_live s.image.segments fun x => x.waiting.filter fun j => j ≠ k⟩

theorem calm_freeSlot (s : State) (k : Fin 16) (o : LastOutcome) : Calm s (s.freeSlot k o) := by
  unfold State.freeSlot
  split
  · exact .refl s
  · exact ⟨rfl, rfl, fun _ => rfl⟩

theorem calm_answerSlot (s : State) (k : Fin 16) (h : Hold) (st : HostStatus) (d : List Byte) (o : LastOutcome) :
    Calm s (s.answerSlot k h st d o) :=
  ((calm_setHost s _).trans (calm_freeSlot _ k o)).trans (calm_setHost _ _)

theorem calm_forwardSlot (s : State) (k : Fin 16) (h : Hold) (e : IssueEntry) (o : LastOutcome) : Calm s (s.forwardSlot k h e o) :=
  ((calm_setIssue s _).trans (calm_freeSlot _ k o)).trans (calm_setHost _ _)

theorem calm_holdDefer (s : State) (k : Fin 16) (h : Hold) : Calm s (s.holdDefer k h) := ⟨rfl, rfl, fun _ => rfl⟩

theorem calm_holdImageWait (s : State) (k : Fin 16) (h : Hold) (g : Fin 16) : Calm s (s.holdImageWait k h g) :=
  ⟨rfl, rfl, fun j => setWaiting_live s.image g j _⟩

/-- SERVE writes bytes or posts a notice (R122, R123, R125). -/
theorem calm_serve (s : State) (g : Fin 16) (p : Nat) (r : HostRequest) : Calm s (s.serve g p r).1 := by
  unfold State.serve
  split
  · split
    · split
      · exact ⟨rfl, rfl, fun _ => rfl⟩
      · exact calm_post s _
    · exact calm_post s _
  · exact calm_post s _

theorem calm_answerServed (s : State) (k : Fin 16) (h : Hold) (out : Option (List Byte)) : Calm s (s.answerServed k h out) := by
  cases out <;> exact calm_answerSlot s _ _ _ _ _

theorem calm_startHead (s : State) (k : Fin 16) (h : Hold) : Calm s (s.startHead k h).1 := by
  unfold State.startHead
  split
  · exact calm_forwardSlot s _ _ _ _
  · exact calm_holdDefer s _ _
  · split
    · exact calm_holdImageWait s _ _ _
    · exact (calm_serve s _ _ _).trans (calm_answerServed _ _ _ _)
  · exact calm_answerSlot s _ _ _ _ _
  · exact calm_answerSlot s _ _ _ _ _

theorem calm_cascade (w : Fin 24) (l : List (Fin 32)) (s : State) : Calm s (State.cascade w l s) := by
  induction l generalizing s with
  | nil => exact calm_setChains s _
  | cons t rest ih =>
    unfold State.cascade
    split
    · exact calm_setChains s _
    · rename_i k h _
      have hstart := calm_startHead s k h
      split <;> rename_i he <;> rw [he] at hstart
      · exact hstart.trans (ih _)
      · exact hstart.trans (calm_setChains _ _)

theorem calm_advance (s : State) (t : Fin 32) (e : Option TagEntry) : Calm s (s.advance t e) := by
  unfold State.advance
  split
  · split
    · split
      · exact calm_cascade _ _ s
      · exact .refl s
    · exact .refl s
  · exact .refl s

theorem calm_endHold (s : State) (k : Fin 16) (h : Hold) (st : HostStatus) (d : List Byte) (o : LastOutcome) :
    Calm s (s.endHold k h st d o) :=
  (calm_answerSlot s _ _ _ _ _).trans (calm_advance _ _ _)

/-! ### Admission -/

theorem calm_countAccepted (s : State) (w : Fin 24) (o : Op) : Calm s (s.countAccepted w o) := by
  rw [countAccepted_eq]
  exact ⟨rfl, rfl, fun _ => rfl⟩

theorem calm_enter (s : State) (t : Fin 32) (w : Fin 24) (p : TagPlace) : Calm s (s.enter t w p) := by
  rw [enter_eq]
  exact ⟨rfl, rfl, fun _ => rfl⟩

theorem calm_dispatch (s : State) (r : HostRequest) (d : Decision) (k : Option (Fin 16)) : Calm s (s.dispatch r d k) := by
  unfold State.dispatch
  split
  · exact (calm_setHold s _).trans (calm_enter _ _ _ _)
  · exact (calm_holdDefer s _ _).trans (calm_enter _ _ _ _)
  · exact (calm_setIssue s _).trans (calm_enter _ _ _ _)
  · exact calm_setHost s _
  · exact calm_setHost s _
  · split
    · split
      · exact (calm_holdImageWait s _ _ _).trans (calm_enter _ _ _ _)
      · exact .refl s
    · dsimp only
      split <;> exact (calm_serve s _ _ _).trans (calm_setHost _ _)
  · exact .refl s

theorem calm_dispatchDefault (s : State) (r : HostRequest) : Calm s (s.dispatchDefault r) := by
  unfold State.dispatchDefault
  split
  · exact (calm_setIssue s _).trans (calm_setHost _ _)
  · exact calm_setHost s _
  · exact calm_setHost s _

theorem calm_openLink (s : State) : Calm s s.openLink := calm_setHost s _

theorem calm_evaluate (again : Bool) (r : HostRequest) (s : State) : Calm s (s.evaluate again r) := by
  have hrefused : ∀ d, Calm s ((s.openLink.post d).respond r.tag .fault []) := fun d =>
    ((calm_openLink s).trans (calm_post _ d)).trans (calm_setHost _ _)
  unfold State.evaluate
  split
  · exact (calm_openLink s).trans (calm_post _ _)
  · split
    · exact hrefused _
    · dsimp only
      split
      · exact hrefused _
      · split
        · exact (calm_openLink s).trans (calm_dispatchDefault _ _)
        · split
          · split
            · exact .refl s
            · exact (calm_setHost s _).trans (calm_post _ _)
          · exact ((calm_openLink s).trans (calm_countAccepted _ _ _)).trans (calm_dispatch _ _ _ _)

theorem calm_reportFreeing (s b : State) : Calm s (s.reportFreeing b) := by
  unfold State.reportFreeing
  split
  · split
    · exact calm_evaluate true _ s
    · exact .refl s
  · exact .refl s

/-! ### The events of the two links and the deadlines -/

theorem calm_offer (r : HostRequest) (s : State) : Calm s (offer r s) := by
  unfold offer
  split
  · exact .refl s
  · exact calm_evaluate false r s

theorem calm_grantOffer (s : State) : Calm s (grantOffer s) := by
  unfold grantOffer
  split
  · exact .refl s
  · exact (calm_setIssue s _).trans (calm_setHost _ _)

theorem calm_memoryAnswer (m : MemResponse) (s : State) : Calm s (memoryAnswer m s) := by
  unfold memoryAnswer
  split
  · exact calm_post s _
  · split
    · exact calm_setIssue s _
    · exact (calm_setIssue s _).trans (calm_post _ _)
  · rename_i t o n a _
    have htold : ∀ out : Option (List Byte), Calm s (match out with
        | some data => s.respond t .ok data
        | none => (s.post (.memoryFault m.tag (.hostTag t a))).respond t .fault []) := by
      intro out
      cases out with
      | some data => exact calm_setHost s _
      | none => exact (calm_post s _).trans (calm_setHost _ _)
    exact ((((htold _).trans (calm_setIssue _ _)).trans (calm_setHost _ _)).trans (calm_advance _ _ _)).trans
      (calm_reportFreeing _ _)

theorem calm_expire (s : State) (k : Fin 16) (h : Hold) : Calm s (s.expire k h) := by
  refine (calm_leaveLists s k).trans ?_
  unfold State.expire
  dsimp only
  split
  · exact ((calm_answerSlot _ _ _ _ _ _).trans (calm_post _ _)).trans (calm_advance _ _ _)
  · exact (calm_forwardSlot _ _ _ _ _).trans (calm_post _ _)

theorem calm_runOut (k : Fin 16) (s : State) : Calm s (runOut k s) := by
  unfold runOut
  split
  · exact .refl s
  · split
    · exact .refl s
    · exact ((calm_setHold s _).trans (calm_expire _ _ _)).trans (calm_reportFreeing _ _)

theorem calm_resetLink (s : State) : Calm s (resetLink s) := by
  rw [resetLink_eq]
  exact ⟨rfl, rfl, relisted_live s.image.segments fun _ => []⟩

end calm

end Sys2Proof.Machine
end

section
/-! Every command and event keeps the port's law, and none but RESETn's own moves the pin (R115, R170, R179, R185, R186). -/

namespace Sys2Proof.Machine

/-! ### The port's law -/

section law

variable {s t : State}

/-- What leaves the port and every segment's geometry, state and cursor keeps the port's law. -/
theorem State.PortLawful.of_calm (h : s.PortLawful) (hc : Calm s t) : t.PortLawful := by
  simpa only [State.PortLawful, hc.port, hc.live] using h

/-- A response made ready carries the flags away (R179). -/
theorem portLawful_makeReady (s : State) (code q : Byte) (r : Result) (d : List Byte) : (s.makeReady code q r d).PortLawful :=
  ⟨rfl, rfl⟩

/-- scheck begins only on a LOADING segment with its load complete (R115). -/
theorem takeScheck_portLawful (q : Byte) (p : List Byte) (s : State) : (takeScheck q p s).PortLawful := by
  unfold takeScheck
  dsimp only
  split
  · split
    · exact portLawful_makeReady ..
    · split
      · exact portLawful_makeReady ..
      · rename_i l hl
        split_ifs with hstate hcursor
        · exact portLawful_makeReady ..
        · exact portLawful_makeReady ..
        · exact ⟨l, hl, not_not.mp hstate, not_not.mp hcursor⟩
  · exact portLawful_makeReady ..

/-- Whatever state a command finds, it leaves the port READY with both flags clear, or BUSY with a command that may execute. -/
theorem takeCommand_portLawful (c : Command) (q : Byte) (p : List Byte) (s : State) : (takeCommand c q p s).PortLawful := by
  cases c with
  | commit =>
    simp only [takeCommand, takeCommit]
    split
    · exact trivial
    · exact portLawful_makeReady ..
  | scheck => exact takeScheck_portLawful q p s
  | clearall =>
    simp only [takeCommand, takeClearall]
    split
    · exact trivial
    · exact portLawful_makeReady ..
  | _ => exact portLawful_makeReady ..

/-- A frame is dropped by a BUSY port, whose command goes on, and else handled (R174, R175). -/
theorem State.PortLawful.takeFrame (h : s.PortLawful) (n : Nat) {f : State → State} (hf : ∀ z, (f z).PortLawful) :
    (s.takeFrame n f).PortLawful := by
  cases hp : s.port.phase with
  | busy c =>
    rw [takeFrame_busy hp]
    simp only [State.PortLawful, State.setPort_port, State.setPort_image, hp] at h ⊢
    cases c with
    | scheck => exact h
    | _ => trivial
  | idle | ready => simpa only [State.takeFrame, State.shiftOut, State.setPort_port, hp] using hf _

/-- A poll releases a response, which has taken the flags with it (R178, R179). -/
theorem State.PortLawful.takePoll (h : s.PortLawful) (rest : List Byte) : (takePoll rest s).PortLawful := by
  unfold Machine.takePoll
  dsimp only
  split
  all_goals rename_i hp; simpa only [State.PortLawful, State.shiftOut, State.setPort_port, State.setPort_image, hp] using h

theorem handleRaw_portLawful (b : List Byte) (cut : Bool) (s : State) : (handleRaw b cut s).PortLawful := by
  unfold handleRaw
  dsimp only
  split
  · exact portLawful_makeReady ..
  · split
    · exact portLawful_makeReady ..
    · exact takeCommand_portLawful ..

theorem State.PortLawful.takeRaw (h : s.PortLawful) (b : List Byte) (cut : Bool) : (takeRaw b cut s).PortLawful := by
  unfold Machine.takeRaw
  split
  · exact h
  · split
    · exact h.takePoll _
    · exact h.takeFrame _ fun z => handleRaw_portLawful _ cut z

/-- A completion of the command in execution makes its response ready; there is none of another (R177, log 6). -/
theorem State.PortLawful.completeCommit (h : s.PortLawful) : (completeCommit s).PortLawful := by
  unfold Machine.completeCommit
  split
  · split <;> exact portLawful_makeReady ..
  · exact h

theorem State.PortLawful.completeScheck (h : s.PortLawful) : (completeScheck s).PortLawful := by
  unfold Machine.completeScheck
  split
  · split
    · exact h
    · exact portLawful_makeReady ..
  · exact h

theorem State.PortLawful.completeClearall (h : s.PortLawful) : (completeClearall s).PortLawful := by
  unfold Machine.completeClearall
  split
  · exact portLawful_makeReady ..
  · exact h

theorem State.PortLawful.movePin (h : s.PortLawful) (l : PinLevel) : (movePin l s).PortLawful := by
  unfold Machine.movePin
  split
  · exact ⟨rfl, rfl⟩
  · exact ⟨rfl, rfl⟩
  · exact h

end law

/-! ### The pin -/

section pin

variable (p : List Byte) (s : State)

theorem withCurrent_resetn {slot use : Byte} {d : Bool} {f : Fin 16 → Hold → Answer}
    (hf : ∀ k h, (f k h).after.resetn = s.resetn) : (s.withCurrent slot use d f).after.resetn = s.resetn := by
  unfold State.withCurrent
  split
  · rfl
  · dsimp only
    split
    · split
      · exact hf _ _
      · rfl
    · rfl

theorem withDefer_resetn {slot use : Byte} {f : Fin 16 → Hold → Answer} (hf : ∀ k h, (f k h).after.resetn = s.resetn) :
    (s.withDefer slot use f).after.resetn = s.resetn := by
  refine withCurrent_resetn s fun k h => ?_
  split
  · exact hf k h
  · rfl

/-- A decision that answers its hold, or sends its request on, reports the freeing; the pin stays. -/
theorem decided_resetn (k : Fin 16) (h : Hold) (st : HostStatus) (d : List Byte) (o : LastOutcome) :
    ((s.endHold k h st d o).reportFreeing s).resetn = s.resetn :=
  ((calm_endHold s k h st d o).trans (calm_reportFreeing _ s)).pin

/-- A wait list worked through, with the freeings reported, leaves the pin. -/
theorem worked_resetn (t b : State) (g : Fin 16) : ((t.workThrough g).reportFreeing b).resetn = t.resetn := by
  obtain ⟨-, -, hpin⟩ := (steady_workThrough g).keeps (s := t)
  exact (calm_reportFreeing _ b).pin.trans hpin

theorem markHold_resetn (d : Detail) (n : NoticeState) : (s.markHold d n).resetn = s.resetn := by
  obtain ⟨-, -, hpin⟩ := Steady.keeps (s := s) (f := fun t => t.markHold d n) fun t x r m => markHold_framed (s := t) x r m d n
  exact hpin

theorem wsetBody_resetn : (wsetBody p s).after.resetn = s.resetn := by
  unfold wsetBody
  split
  · rfl
  · split
    · split <;> rfl
    · rfl

theorem wclearBody_resetn : (wclearBody p s).after.resetn = s.resetn := by
  unfold wclearBody
  split
  · split <;> rfl
  · rfl

theorem wdefaultBody_resetn : (wdefaultBody p s).after.resetn = s.resetn := by
  unfold wdefaultBody
  split
  · split <;> rfl
  · rfl

theorem wzeroBody_resetn : (wzeroBody p s).after.resetn = s.resetn := by
  unfold wzeroBody
  split
  · split
    · rfl
    · split <;> rfl
  · rfl

theorem tsetBody_resetn : (tsetBody p s).after.resetn = s.resetn := by
  unfold tsetBody
  split
  · split
    · split <;> rfl
    · rfl
  · rfl

theorem sloadBody_resetn : (sloadBody p s).after.resetn = s.resetn := by
  unfold sloadBody
  split
  · split
    · rfl
    · dsimp only
      split
      · rfl
      · split
        · split
          · rfl
          · split <;> rfl
        · split <;> rfl
  · rfl

theorem sdataBody_resetn : (sdataBody p s).after.resetn = s.resetn := by
  unfold sdataBody
  split
  · split
    · rfl
    · split
      · rfl
      · dsimp only
        split
        · rfl
        · split
          · rfl
          · split_ifs <;> rfl
  · rfl

theorem hdataBody_resetn : (hdataBody p s).after.resetn = s.resetn := by
  unfold hdataBody
  split
  · split
    · rfl
    · refine withDefer_resetn s fun k h => ?_
      split_ifs
      · rfl
      · rfl
      · exact decided_resetn s k h _ _ _
  · rfl

theorem hdoneBody_resetn : (hdoneBody p s).after.resetn = s.resetn := by
  unfold hdoneBody
  split
  · split
    · rfl
    · refine withDefer_resetn s fun k h => ?_
      split_ifs
      · rfl
      · rfl
      · exact decided_resetn s k h _ _ _
  · rfl

theorem hfwdBody_resetn : (hfwdBody p s).after.resetn = s.resetn := by
  unfold hfwdBody
  split
  · split
    · rfl
    · rename_i x _
      refine withDefer_resetn s fun k h => ?_
      have hsent : ((s.forwardSlot k h (x.entry h) .forwarded).reportFreeing s).resetn = s.resetn :=
        ((calm_forwardSlot s k h _ _).trans (calm_reportFreeing _ s)).pin
      split_ifs
      · rfl
      · rfl
      · rfl
      · exact hsent
  · rfl

theorem hrefuseBody_resetn : (hrefuseBody p s).after.resetn = s.resetn := by
  unfold hrefuseBody
  split
  · refine withDefer_resetn s fun k h => ?_
    split_ifs
    · exact decided_resetn s k h _ _ _
    · exact decided_resetn s k h _ _ _
    · rfl
  · rfl

theorem hrenewBody_resetn : (hrenewBody p s).after.resetn = s.resetn := by
  unfold hrenewBody
  split
  · refine withDefer_resetn s fun k h => ?_
    split <;> rfl
  · rfl

theorem nfetchBody_resetn : (nfetchBody p s).after.resetn = s.resetn := by
  unfold nfetchBody
  split
  · rfl
  · split
    · rfl
    · dsimp only
      split
      · rfl
      · exact markHold_resetn _ _ _

theorem nackBody_resetn : (nackBody p s).after.resetn = s.resetn := by
  unfold nackBody
  split
  · split
    · split
      · exact markHold_resetn _ _ _
      · rfl
    · rfl
  · rfl

theorem sabortBody_resetn : (sabortBody p s).after.resetn = s.resetn := by
  unfold sabortBody
  split
  · split
    · rfl
    · split
      · rfl
      · split
        · rfl
        · exact worked_resetn _ s _
  · rfl

theorem sfreeBody_resetn : (sfreeBody p s).after.resetn = s.resetn := by
  unfold sfreeBody
  split
  · split
    · rfl
    · split
      · rfl
      · split
        · rfl
        · refine (worked_resetn _ s _).trans ?_
          split <;> rfl
  · rfl

theorem takeScheck_resetn (q : Byte) : (takeScheck q p s).resetn = s.resetn := by
  unfold takeScheck
  split
  · split
    · rfl
    · split
      · rfl
      · split_ifs <;> rfl
  · rfl

theorem immediately_resetn {c : Command} {q : Byte} {f : State → Answer} (hf : (f s).after.resetn = s.resetn) :
    (s.immediately c q f).resetn = s.resetn := hf

/-- No command moves the pin. -/
theorem takeCommand_resetn (c : Command) (q : Byte) : (takeCommand c q p s).resetn = s.resetn := by
  cases c with
  | wset => exact immediately_resetn s (wsetBody_resetn p s)
  | wclear => exact immediately_resetn s (wclearBody_resetn p s)
  | wdefault => exact immediately_resetn s (wdefaultBody_resetn p s)
  | wread => exact immediately_resetn s (by rw [wreadBody_after])
  | commit =>
    simp only [takeCommand, takeCommit]
    split <;> rfl
  | wstats => exact immediately_resetn s (by rw [wstatsBody_after])
  | wzero => exact immediately_resetn s (wzeroBody_resetn p s)
  | tset => exact immediately_resetn s (tsetBody_resetn p s)
  | hread => exact immediately_resetn s (by rw [hreadBody_after])
  | hdata => exact immediately_resetn s (hdataBody_resetn p s)
  | hdone => exact immediately_resetn s (hdoneBody_resetn p s)
  | hfwd => exact immediately_resetn s (hfwdBody_resetn p s)
  | hrefuse => exact immediately_resetn s (hrefuseBody_resetn p s)
  | hrenew => exact immediately_resetn s (hrenewBody_resetn p s)
  | nfetch => exact immediately_resetn s (nfetchBody_resetn p s)
  | nack => exact immediately_resetn s (nackBody_resetn p s)
  | sload => exact immediately_resetn s (sloadBody_resetn p s)
  | sdata => exact immediately_resetn s (sdataBody_resetn p s)
  | scheck => exact takeScheck_resetn p s q
  | sabort => exact immediately_resetn s (sabortBody_resetn p s)
  | sfree => exact immediately_resetn s (sfreeBody_resetn p s)
  | sread => exact immediately_resetn s (by rw [sreadBody_after])
  | sinfo => exact immediately_resetn s (by rw [sinfoBody_after])
  | status => exact immediately_resetn s (by rw [statusBody_after])
  | clearall =>
    simp only [takeCommand, takeClearall]
    split <;> rfl

theorem takeFrame_resetn (n : Nat) {f : State → State} (hf : ∀ z, (f z).resetn = z.resetn) :
    (s.takeFrame n f).resetn = s.resetn := by
  unfold State.takeFrame
  dsimp only
  split
  · rfl
  · exact hf _
  · exact hf _

theorem takePoll_resetn (rest : List Byte) : (takePoll rest s).resetn = s.resetn := by
  unfold takePoll
  dsimp only
  split <;> rfl

theorem handleRaw_resetn (b : List Byte) (cut : Bool) : (handleRaw b cut s).resetn = s.resetn := by
  unfold handleRaw
  dsimp only
  split
  · rfl
  · split
    · rfl
    · exact takeCommand_resetn _ s _ _

theorem takeRaw_resetn (b : List Byte) (cut : Bool) : (takeRaw b cut s).resetn = s.resetn := by
  unfold takeRaw
  split
  · rfl
  · split
    · exact takePoll_resetn s _
    · exact takeFrame_resetn s _ fun z => handleRaw_resetn z _ cut

theorem completeCommit_resetn : (completeCommit s).resetn = s.resetn := by
  unfold completeCommit
  split
  · split <;> rfl
  · rfl

theorem completeScheck_resetn : (completeScheck s).resetn = s.resetn := by
  unfold completeScheck
  split
  · split
    · rfl
    · refine (worked_resetn _ s _).trans ?_
      unfold State.judge
      split <;> rfl
  · rfl

theorem completeClearall_resetn : (completeClearall s).resetn = s.resetn := by
  unfold completeClearall
  split
  · obtain ⟨-, -, hpin⟩ := Steady.keeps (s := s) (f := State.clearBlocks) fun t x r n => clearBlocks_framed t x r n
    exact (calm_reportFreeing _ s).pin.trans hpin
  · rfl

end pin

/-! ### The two laws together -/

section step

variable {s t : State}

/-- The port's law, and the power-on state under RESETn low. -/
abbrev State.PortAndPin (s : State) : Prop := s.PortLawful ∧ s.PinLawful

/-- With RESETn high there is nothing that the pin asks. -/
theorem State.pinLawful_of_high (h : s.resetn = .high) : s.PinLawful := fun hlow => by rw [h] at hlow; cases hlow

/-- An event that a running part takes keeps both laws where it keeps the port's and leaves the pin; a part in reset takes none (R186). -/
theorem State.PortAndPin.running {f : State → State} (h : s.PortAndPin) (hport : (f s).PortLawful) (hpin : (f s).resetn = s.resetn)
    (ht : running s f = .next t) : t.PortAndPin := by
  cases hr : s.resetn with
  | high =>
    rw [running_high hr] at ht
    cases ht
    exact ⟨hport, State.pinLawful_of_high (hpin.trans hr)⟩
  | low =>
    rw [running_low hr] at ht
    cases ht
    exact h

/-- The events of the links and the deadlines leave port, pin and segments. -/
theorem State.PortAndPin.running_calm {f : State → State} (h : s.PortAndPin) (hf : Calm s (f s)) (ht : Machine.running s f = .next t) :
    t.PortAndPin :=
  h.running (h.1.of_calm hf) hf.pin ht

/-- RESETn falling or rising gives the power-on state at its level (R185). -/
theorem State.PortAndPin.movePin (h : s.PortAndPin) (l : PinLevel) : (movePin l s).PortAndPin := by
  refine ⟨h.1.movePin l, ?_⟩
  unfold Machine.movePin
  split
  · exact fun _ => rfl
  · exact State.pinLawful_of_high rfl
  · exact h.2

theorem State.PortAndPin.exec {i : Instr} (h : s.PortAndPin) (ht : exec i s = .next t) : t.PortAndPin := by
  cases hc : i.asCommand with
  | some x =>
    obtain ⟨c, q, p⟩ := x
    rw [asCommand_eq hc, exec_instrOf] at ht
    exact h.running (h.1.takeFrame _ (takeCommand_portLawful c q p)) (takeFrame_resetn s _ fun z => takeCommand_resetn p z c q) ht
  | none =>
    cases i with
    | hostOffer r => exact h.running_calm (calm_offer r s) ht
    | grant => exact h.running_calm (calm_grantOffer s) ht
    | memoryResponse m => exact h.running_calm (calm_memoryAnswer m s) ht
    | expiry k => exact h.running_calm (calm_runOut k s) ht
    | hostLinkReset => exact h.running_calm (calm_resetLink s) ht
    | resetn l =>
      rw [exec_resetn] at ht
      cases ht
      exact h.movePin l
    | commitCompletion => exact h.running h.1.completeCommit (completeCommit_resetn s) ht
    | scheckCompletion => exact h.running h.1.completeScheck (completeScheck_resetn s) ht
    | clearallCompletion => exact h.running h.1.completeClearall (completeClearall_resetn s) ht
    | poll rest => exact h.running (h.1.takePoll rest) (takePoll_resetn s rest) ht
    | unexecutedFrame b cut => exact h.running (h.1.takeRaw b cut) (takeRaw_resetn s b cut) ht
    | shortFrame w =>
      rw [exec_shortFrame] at ht
      cases ht
      exact h
    | _ => simp [Instr.asCommand] at hc

/-- In the power-on state no deadline runs (R50). -/
theorem elapse_reset (r : Nat) : State.reset.hold.elapse r = State.reset.hold := by
  have hslots : (State.reset.hold.elapse r).slots = State.reset.hold.slots := table_ext fun k => by
    rw [elapse_slot, Slot.elapse, slots_free_reset]
    simp [State.reset]
  exact congrArg (fun v => ({ State.reset.hold with slots := v } : HoldTable)) hslots

/-- The idle part keeps both laws while a unit of time passes. -/
theorem State.PortAndPin.elapse (h : s.PortAndPin) (r : Nat) : (s.setHold (s.hold.elapse r)).PortAndPin := by
  refine ⟨h.1.of_calm (calm_setHold s _), fun hlow => ?_⟩
  have hs := h.2 hlow
  rw [hs]
  exact congrArg (s.powerOn .low).setHold (elapse_reset r)

/-- What waits in the queue is apart from port and pin. -/
theorem State.PortAndPin.setPending (h : s.PortAndPin) (x : List Instr) : (s.setPending x).PortAndPin :=
  ⟨h.1, fun hlow => congrArg (fun t : State => t.setPending x) (h.2 hlow)⟩

/-- Settles O60: an idle step by the elapsing of time, any other by the command executed. -/
theorem portAndPinStayLawful : Obligations.PortAndPinStayLawful := by
  intro s t hport hpin hstep
  have h : s.PortAndPin := ⟨hport, hpin⟩
  unfold step at hstep
  split at hstep
  · cases hstep
    exact h.elapse 1
  · exact (h.setPending _).exec hstep

end step

end Sys2Proof.Machine
end

section
/-! The loading of a segment: what sload and sdata answer, outcome by outcome, and the statements about them (R111 to R113). -/

namespace Sys2Proof.Machine

open Claims

/-- A command that answers by writing the image store, and the port replies. -/
theorem immediate_image {s : State} (h : Accepts s) (n : Nat) (c : Command) (q : Byte) {body : State → Answer} {r : Result}
    {d : List Byte} {x : ImageStore}
    (hb : body (s.setPort (handling s.port n)) = ⟨r, d, (s.setPort (handling s.port n)).setImage x⟩) :
    running s (fun s => s.takeFrame n fun s => s.immediately c q body) =
      .next { s with image := x, port := replied s.port n (commandCode c) q r d } :=
  immediate_next (t := s.setImage x) h n c q body hb

theorem indexOf_segment (g : Fin 16) : indexOf 16 (indexByte g) = some g := indexOf_indexByte (by decide) g

/-- A number of 16 bits is read back from its two bytes (R187). -/
theorem fromLE_le_two {x : Nat} (hx : x < 65536) : fromLE [BitVec.ofNat 8 x, BitVec.ofNat 8 (x / 256)] = x := fromLE_le 2 x hx

/-! ### sload (R111, R112) -/

/-- The base and length that R111 allows. -/
theorem rangeFits_iff {base length : Nat} :
    rangeFits base length = true ↔
      base % 8 = 0 ∧ base ≤ 16376 ∧ length % 8 = 0 ∧ 8 ≤ length ∧ base + length ≤ 16384 := by
  have hsize : Config.storeSize = 16384 := rfl
  simp only [rangeFits, Bool.and_eq_true, decide_eq_true_eq]
  omega

section sload

variable {s : State} {g : Fin 16} {base length : Nat} {l : Live}

/-- A segment of a lawful store covers some of a range exactly where they share a position (R110). -/
theorem covers_iff_shares {x : Segment} (hpos : 0 < length) (hx : ∀ l ∈ x.live, 0 < l.length) :
    x.covers base length = true ↔
      ∃ l ∈ x.live, ∃ a, base ≤ a ∧ a < base + length ∧ l.base ≤ a ∧ a < l.base + l.length := by
  unfold Segment.covers
  cases hlive : x.live with
  | none => simp
  | some l =>
    have hlen := hx l hlive
    simp only [Option.mem_some_iff, exists_eq_left', Bool.and_eq_true, decide_eq_true_eq]
    constructor
    · rintro ⟨hbefore, hbehind⟩
      exact ⟨max base l.base, by omega⟩
    · rintro ⟨a, ha⟩
      omega

/-- The segments of a lawful store have bytes (R108). -/
theorem ImageStore.Geometry.length_pos {m : ImageStore} (h : m.Geometry) (j : Fin 16) : ∀ l ∈ m.segments[j].live, 0 < l.length := by
  intro l hl
  obtain ⟨-, -, -, hlen, -⟩ := rangeFits_iff.mp (h.1 j l hl).1
  omega

/-- The segment loading afresh over a range (R112). -/
def State.loaded (s : State) (g : Fin 16) (base length : Nat) : Answer :=
  { result := .done, payload := []
    after := s.setImage (s.image.setLive g (some { state := .loading, base := base, length := length, cursor := 0 })) }

/-- sload of a segment, from the numbers that its payload spells: first the range is checked, then the segment's state (R111). -/
theorem sloadBody_segment (g : Fin 16) (hb : base < 65536) (hn : length < 65536) (s : State) :
    sloadBody (indexByte g :: (le 2 base ++ le 2 length)) s =
      if rangeFits base length = true then
        match s.image.segments[g].live with
        | some l =>
          if l.state = .loading then s.answers .wrongState [l.state.code]
          else if l.base = base ∧ l.length = length then s.loaded g base length
          else s.answers .geometry (geometryShown g s.image.segments[g])
        | none =>
          match lowest (fun x => x.covers base length) s.image.segments with
          | some j => s.answers .geometry (geometryShown j s.image.segments[j])
          | none => s.loaded g base length
      else s.answers .invalid [] := by
  simp only [sloadBody, le, List.cons_append, List.nil_append, indexOf_segment, fromLE_le_two hb, fromLE_le_two hn]
  cases rangeFits base length <;> rfl

variable (hb : base < 65536) (hn : length < 65536)

theorem sloadBody_outside {a : Byte} (ha : 16 ≤ a.toNat) (base length : Nat) (s : State) :
    sloadBody (a :: (le 2 base ++ le 2 length)) s = s.answers .invalid [] := by
  simp only [sloadBody, le, List.cons_append, List.nil_append, indexOf_eq_none.mpr ha]

include hb hn

theorem sloadBody_unfit (hf : ¬ rangeFits base length = true) :
    sloadBody (indexByte g :: (le 2 base ++ le 2 length)) s = s.answers .invalid [] := by
  rw [sloadBody_segment g hb hn, if_neg hf]

variable (hf : rangeFits base length = true)

include hf

theorem sloadBody_empty (hl : s.image.segments[g].live = none) (hfree : ∀ j : Fin 16, s.image.segments[j].covers base length = false) :
    sloadBody (indexByte g :: (le 2 base ++ le 2 length)) s = s.loaded g base length := by
  rw [sloadBody_segment g hb hn, if_pos hf]
  simp only [hl, lowest_eq_none (p := fun x : Segment => x.covers base length).mpr hfree]

theorem sloadBody_overlap (hl : s.image.segments[g].live = none) {j : Fin 16} (hj : s.image.segments[j].live = some l)
    (hcovers : s.image.segments[j].covers base length = true)
    (hfirst : ∀ i : Fin 16, i < j → s.image.segments[i].covers base length = false) :
    sloadBody (indexByte g :: (le 2 base ++ le 2 length)) s =
      s.answers .geometry (indexByte j :: (le 2 l.base ++ le 2 l.length)) := by
  rw [sloadBody_segment g hb hn, if_pos hf]
  simp only [hl, lowest_eq_some (p := fun x : Segment => x.covers base length).mpr ⟨hcovers, hfirst⟩, geometryShown, hj]

variable (hl : s.image.segments[g].live = some l)

include hl

theorem sloadBody_loading (hs : l.state = .loading) :
    sloadBody (indexByte g :: (le 2 base ++ le 2 length)) s = s.answers .wrongState [0x01] := by
  rw [sloadBody_segment g hb hn, if_pos hf]
  simp only [hl, hs, if_true]
  rfl

theorem sloadBody_reload (hs : l.state ≠ .loading) (hsame : l.base = base ∧ l.length = length) :
    sloadBody (indexByte g :: (le 2 base ++ le 2 length)) s = s.loaded g base length := by
  rw [sloadBody_segment g hb hn, if_pos hf]
  simp only [hl, if_neg hs, if_pos hsame]

theorem sloadBody_other (hs : l.state ≠ .loading) (hother : ¬ (l.base = base ∧ l.length = length)) :
    sloadBody (indexByte g :: (le 2 base ++ le 2 length)) s =
      s.answers .geometry (indexByte g :: (le 2 l.base ++ le 2 l.length)) := by
  rw [sloadBody_segment g hb hn, if_pos hf]
  simp only [hl, if_neg hs, if_neg hother, geometryShown]

end sload

/-- Settles O34: the checks of R111 in their order, an overlap being a shared position of the store. -/
theorem sloadBeginsLoading : Obligations.SloadBeginsLoading := by
  intro q g base length s ha hgeo hb hn p inRange meets refused begun
  have hcovers : inRange → ∀ j : Fin 16, s.image.segments[j].covers base length = true ↔ meets j := fun hr j =>
    covers_iff_shares (by omega) (hgeo.length_pos j)
  have hclear : inRange → ∀ j : Fin 16, ¬ meets j → s.image.segments[j].covers base length = false := fun hr j hj =>
    Bool.eq_false_of_not_eq_true (mt (hcovers hr j).mp hj)
  let z := s.setPort (handling s.port 9)
  have hrefused : ∀ {r d}, sloadBody p z = z.answers r d → exec (.sload q p) s = refused r d := immediate_answers ha 9 .sload q
  have hbegun : sloadBody p z = z.loaded g base length → exec (.sload q p) s = begun := immediate_image ha 9 .sload q
  refine ⟨fun hr hl hfree => ?_, fun hr hl j l hj hfirst hlj => ?_, fun hr l hl hs hbase hlen => ?_, fun hr l hl hs hother => ?_,
    fun hr l hl hs => ?_, fun hr => ?_, fun a hout => ?_⟩
  · exact hbegun (sloadBody_empty hb hn (rangeFits_iff.mpr hr) hl fun j => hclear hr j (hfree j))
  · exact hrefused (sloadBody_overlap (s := z) hb hn (rangeFits_iff.mpr hr) hl hlj ((hcovers hr j).mpr hj)
      fun i hi => hclear hr i (hfirst i hi))
  · exact hbegun (sloadBody_reload hb hn (rangeFits_iff.mpr hr) hl hs ⟨hbase, hlen⟩)
  · exact hrefused (sloadBody_other hb hn (rangeFits_iff.mpr hr) hl hs hother)
  · exact hrefused (sloadBody_loading hb hn (rangeFits_iff.mpr hr) hl hs)
  · exact hrefused (sloadBody_unfit hb hn (mt rangeFits_iff.mp hr))
  · exact immediate_answers ha 9 .sload q (sloadBody_outside hout base length _)

end Sys2Proof.Machine
end

section
/-! Bytes written at the load cursor: what sdata answers, outcome by outcome, and the statement about it (R113). -/

namespace Sys2Proof.Machine

open Claims

section sdata

variable {s : State} {g : Fin 16} {offset : Nat} {data : List Byte} {l : Live}

theorem stateCode_none {x : Segment} (h : x.live = none) : x.stateCode = 0x00 := by
  simp only [Segment.stateCode, h]

theorem stateCode_some {x : Segment} (h : x.live = some l) : x.stateCode = l.state.code := by
  simp only [Segment.stateCode, h]

/-- The offset and the data that R113 allows. -/
def DataFits (offset : Nat) (data : List Byte) : Prop := offset ≤ 16383 ∧ 1 ≤ data.length ∧ data.length ≤ 128

theorem not_dataFits_iff : ¬ DataFits offset data ↔ 16383 < offset ∨ data = [] ∨ 128 < data.length := by
  rw [DataFits, ← List.length_eq_zero_iff]
  omega

theorem sdataBody_outside {a : Byte} (ha : 16 ≤ a.toNat) (offset : Nat) (data : List Byte) (s : State) :
    sdataBody (a :: (le 2 offset ++ data)) s = s.answers .invalid [] := by
  simp only [sdataBody, le, List.cons_append, List.nil_append, indexOf_eq_none.mpr ha]
  split <;> rfl

theorem sdataBody_unfit (g : Fin 16) (ho : offset < 65536) (hf : ¬ DataFits offset data) (s : State) :
    sdataBody (indexByte g :: (le 2 offset ++ data)) s = s.answers .invalid [] := by
  simp only [sdataBody, le, List.cons_append, List.nil_append, indexOf_segment, fromLE_le_two ho]
  obtain hlate | hlen := not_dataFits_iff.mp hf
  · rw [if_pos hlate]
    split <;> rfl
  · rw [if_pos hlen]

theorem sdataBody_empty (hf : DataFits offset data) (hl : s.image.segments[g].live = none) :
    sdataBody (indexByte g :: (le 2 offset ++ data)) s = s.answers .wrongState [0x00] := by
  obtain ⟨ho, h1, h128⟩ := hf
  have hdata : ¬ (data = [] ∨ 128 < data.length) := by rw [← List.length_eq_zero_iff]; omega
  simp only [sdataBody, le, List.cons_append, List.nil_append, if_neg hdata, indexOf_segment,
    fromLE_le_two (show offset < 65536 by omega), if_neg (show ¬ 16383 < offset by omega), hl, stateCode_none hl]

/-- The bytes written and the cursor advanced (R113). -/
def State.filled (s : State) (g : Fin 16) (l : Live) (offset : Nat) (data : List Byte) : Answer :=
  { result := .done, payload := le 2 (l.cursor + data.length)
    after := s.setImage
      { s.image.setLive g (some { l with cursor := l.cursor + data.length }) with
        bytes := writeBytes s.image.bytes (l.base + offset) data } }

/-- sdata of a segment that is not EMPTY: its state, the cursor and the length are checked in this order (R113). -/
theorem sdataBody_live (hf : DataFits offset data) (hl : s.image.segments[g].live = some l) :
    sdataBody (indexByte g :: (le 2 offset ++ data)) s =
      if l.state ≠ .loading then s.answers .wrongState [l.state.code]
      else if offset ≠ l.cursor then s.answers .sequence (le 2 l.cursor)
      else if l.length < offset + data.length then s.answers .badLength (le 2 l.cursor)
      else s.filled g l offset data := by
  obtain ⟨ho, h1, h128⟩ := hf
  have hdata : ¬ (data = [] ∨ 128 < data.length) := by rw [← List.length_eq_zero_iff]; omega
  simp only [sdataBody, le, List.cons_append, List.nil_append, if_neg hdata, indexOf_segment,
    fromLE_le_two (show offset < 65536 by omega), if_neg (show ¬ 16383 < offset by omega), hl, stateCode_some hl]
  rfl

end sdata

/-- Bytes written inside a segment of a lawful store: each is read back at its position, and every other position as it was (R107, R113). -/
theorem writeBytes_segment {m : ImageStore} (hgeo : m.Geometry) (hm : Memory.wf m.bytes = true) {g : Fin 16} {l : Live}
    (hl : m.segments[g].live = some l) {offset : Nat} {data : List Byte} (hfit : offset + data.length ≤ l.length) :
    (∀ i : Fin data.length, byteAt (writeBytes m.bytes (l.base + offset) data) (l.base + offset + i) = data[i]) ∧
    ∀ x, (x < l.base + offset ∨ l.base + offset + data.length ≤ x) →
      byteAt (writeBytes m.bytes (l.base + offset) data) x = byteAt m.bytes x := by
  obtain ⟨-, -, -, -, hend⟩ := rangeFits_iff.mp (hgeo.1 g l hl).1
  have hinside : l.base + offset + data.length ≤ Config.storeSize := by
    have hsize : Config.storeSize = 16384 := rfl
    omega
  refine ⟨fun i => ?_, fun x hx => ?_⟩
  · have hi := i.isLt
    rw [byteAt_writeBytes hm data hinside, if_pos (by omega), Nat.add_sub_cancel_left, List.getD_eq_getElem _ _ hi]
    rfl
  · rw [byteAt_writeBytes hm data hinside, if_neg (by omega)]

/-- Settles O35: the checks of R113 in their order, and the bytes read back position by position. -/
theorem sdataWritesAtTheCursor : Obligations.SdataWritesAtTheCursor := by
  intro q g offset data s ha hgeo hm ho p refused
  let z := s.setPort (handling s.port (data.length + 7))
  have hrefused : ∀ {r d}, sdataBody p z = z.answers r d → refused r d := immediate_answers ha (data.length + 7) .sdata q
  refine ⟨fun a hout => ?_, fun hunfit => ?_, fun hlate h1 h128 => ⟨fun hl => ?_, fun l hl => ?_⟩⟩
  · exact immediate_answers ha (data.length + 7) .sdata q (sdataBody_outside hout offset data _)
  · exact hrefused (sdataBody_unfit g ho (not_dataFits_iff.mpr hunfit) z)
  · exact hrefused (sdataBody_empty (s := z) ⟨hlate, h1, h128⟩ hl)
  · have hbody := sdataBody_live (s := z) ⟨hlate, h1, h128⟩ hl
    have hwrong : l.state ≠ .loading → refused .wrongState [l.state.code] := fun hs => hrefused (hbody.trans (if_pos hs))
    have hloading : l.state = .loading → ¬ l.state ≠ .loading := not_not.mpr
    refine ⟨fun hs => ?_, fun hs => ?_, fun hs hcursor => ?_, fun hs hcursor hlong => ?_, fun hs hcursor hfit => ?_⟩
    · rw [hs] at hwrong
      exact hwrong nofun
    · rw [hs] at hwrong
      exact hwrong nofun
    · rw [if_neg (hloading hs), if_pos hcursor] at hbody
      exact hrefused hbody
    · rw [if_neg (hloading hs), if_neg (not_not.mpr hcursor), if_pos hlong] at hbody
      exact hrefused hbody
    · rw [if_neg (hloading hs), if_neg (not_not.mpr hcursor), if_neg (Nat.not_lt.mpr hfit)] at hbody
      exact ⟨_, immediate_image ha (data.length + 7) .sdata q hbody, writeBytes_segment hgeo hm hl hfit⟩

end Sys2Proof.Machine
end

section
/-! The check of a segment: what scheck answers when it is taken, and what its completion makes of a segment for which no request waits
(R114 to R116, R177). -/

namespace Sys2Proof.Machine

open Claims

section scheck

variable {s : State} {g : Fin 16} {l : Live} {q : Byte} {crc : Word32}

theorem exec_scheck_accepted (ha : Accepts s) (a : Byte) (crc : Word32) :
    exec (.scheck q (a :: le 4 crc.toNat)) s = .next (takeScheck q (a :: le 4 crc.toNat) (s.setPort (handling s.port 9))) := by
  rw [exec_scheck, running_high ha.1, takeFrame_accepts ha]
  rfl

theorem takeScheck_outside {a : Byte} (hout : 16 ≤ a.toNat) (crc : Word32) (s : State) :
    takeScheck q (a :: le 4 crc.toNat) s = s.makeReady 0x52 q .invalid [] := by
  simp only [takeScheck, le, indexOf_eq_none.mpr hout]
  rfl

theorem takeScheck_empty (crc : Word32) (hl : s.image.segments[g].live = none) :
    takeScheck q (indexByte g :: le 4 crc.toNat) s = s.makeReady 0x52 q .wrongState [0x00] := by
  simp only [takeScheck, le, indexOf_segment, hl, stateCode_none hl]
  rfl

/-- A CRC is read back from its four bytes (R189). -/
theorem ofNat_fromLE_crc (crc : Word32) : BitVec.ofNat 32 (fromLE (le 4 crc.toNat)) = crc := by
  rw [fromLE_le 4 _ crc.isLt, BitVec.ofNat_toNat, BitVec.setWidth_eq]

/-- scheck of a segment that is not EMPTY: its state and then its cursor are checked (R115). -/
theorem takeScheck_live (crc : Word32) (hl : s.image.segments[g].live = some l) :
    takeScheck q (indexByte g :: le 4 crc.toNat) s =
      if l.state ≠ .loading then s.makeReady 0x52 q .wrongState [l.state.code]
      else if l.cursor ≠ l.length then s.makeReady 0x52 q .incomplete (le 2 l.cursor)
      else s.setPort { s.port with phase := .busy (.scheck q g crc) } := by
  have hcrc := ofNat_fromLE_crc crc
  simp only [le] at hcrc
  simp only [takeScheck, le, indexOf_segment, hl, stateCode_some hl, hcrc]
  rfl

end scheck

/-- Settles O36: the checks of R115 in their order, on the port as it handles the frame. -/
theorem scheckNeedsALoadedSegment : Obligations.ScheckNeedsALoadedSegment := by
  intro q a crc s ha p refused
  let z := s.setPort (handling s.port 9)
  have hexec : exec (.scheck q p) s = .next (takeScheck q p z) := exec_scheck_accepted ha a crc
  have hrefused : ∀ {r d}, takeScheck q p z = z.makeReady 0x52 q r d → refused r d := fun h => hexec.trans (congrArg _ h)
  refine ⟨fun hout => hrefused (takeScheck_outside hout crc z), ?_⟩
  rintro g rfl
  refine ⟨fun hl => hrefused (takeScheck_empty (s := z) crc hl), fun l hl => ?_⟩
  have htake := takeScheck_live (s := z) (q := q) crc hl
  have hwrong : l.state ≠ .loading → refused .wrongState [l.state.code] := fun hs => hrefused (htake.trans (if_pos hs))
  have hloading : l.state = .loading → ¬ l.state ≠ .loading := not_not.mpr
  refine ⟨fun hs => ?_, fun hs => ?_, fun hs hcursor => ?_, fun hs hcursor => ?_⟩
  · rw [hs] at hwrong
    exact hwrong nofun
  · rw [hs] at hwrong
    exact hwrong nofun
  · rw [if_neg (hloading hs), if_pos hcursor] at htake
    exact hrefused htake
  · rw [if_neg (hloading hs), if_neg (not_not.mpr hcursor)] at htake
    exact hexec.trans (congrArg _ htake)

/-! ### The completion without waiters (R116) -/

/-- Where no request waits, the completion of scheck judges the segment and frees no slot, so a withheld request stays withheld. -/
theorem exec_scheckCompletion_alone {s : State} {g : Fin 16} {l : Live} {x : Option Live} {q : NoticeQueue} {crc : Word32} {seq : Byte}
    (hr : s.resetn = .high) (hp : s.port.phase = .busy (.scheck seq g crc)) (hl : s.image.segments[g].live = some l)
    (hw : s.image.segments[g].waiting = []) (hjudge : s.judge g l crc = s.turned g x q) :
    exec .scheckCompletion s = .next
      { s with
        image := { s.image with segments := s.image.segments.set g { live := x, waiting := [] } }
        notices := q
        port := completed s.port 0x52 seq .done
          ((if s.image.crcOf l = crc then 0x02 else 0x03) :: (le 4 (s.image.crcOf l).toNat ++ [0x00])) } := by
  have hfreed : (s.turned g x q).reportFreeing s = s.turned g x q := reportFreeing_held (lt_irrefl _)
  have hworked : (s.turned g x q).workThrough g = s.turned g x q := by rw [workThrough_turned, hw]; rfl
  rw [exec_scheckCompletion, running_high hr]
  simp only [completeScheck, hp, hl, hjudge, hworked, hfreed]
  simp only [State.makeReady, State.turned, ImageStore.setLive, hw]
  rfl

/-- Settles O37: the segment turns READY or FAILED by its CRC, and there is nothing else to do. -/
theorem scheckJudgesTheSegment : Obligations.ScheckJudgesTheSegment := by
  intro seq g crc l s hr hp hl hw computed after
  refine ⟨fun (hcrc : s.image.crcOf l = crc) => ?_, fun (hcrc : s.image.crcOf l ≠ crc) => ?_⟩
  · rw [exec_scheckCompletion_alone hr hp hl hw (judge_ready hcrc), if_pos hcrc]
    rfl
  · rw [exec_scheckCompletion_alone hr hp hl hw (judge_failed hcrc), if_neg hcrc]
    rfl

end Sys2Proof.Machine
end

section
/-! Segments aborted and freed: every waiter is answered FAULT, and the checks that refuse sabort and sfree (R117 to R119, R126, R190). -/

namespace Sys2Proof.Machine

open Claims

section leaving

variable {s : State} {g : Fin 16} {l : Live} {hs : Fin 16 → Hold} {seq : Byte}

/-- The wait list of a segment that leaves LOADING without being READY, worked through: each waiter is answered FAULT (R126). -/
theorem waiters_faulted {x : Option Live} {q : NoticeQueue} (hx : ∀ y ∈ x, y.state ≠ .ready)
    (hw : Waiters s hs s.image.segments[g].waiting) :
    s.image.segments[g].waiting.foldl (State.workMember g) (s.turned g x q) =
      (s.turned g x q).worked g hs (fun _ => .refused) s.image.segments[g].waiting s.image.bytes
        (s.image.segments[g].waiting.foldl (fun q k => q.withdraw k) q)
        (s.image.segments[g].waiting.map fun k => { tag := (hs k).req.tag, status := .fault, data := [] }) :=
  workMembers_not_ready _ (s.turned g x q) ⟨hw.nodup, hw.held, hw.alone⟩ (by rwa [turned_live])

/-- The notices of an sfree before its waiters are answered: FREED is posted where requests wait (R119). -/
def State.freedNotices (s : State) (g : Fin 16) : NoticeQueue :=
  if s.image.segments[g].waiting = [] then s.notices else s.notices.post (.imageFault g .freed)

/-- The withdrawals that follow it, of which there are none where none waits. -/
theorem freedNotices_withdrawn (s : State) (g : Fin 16) :
    s.image.segments[g].waiting.foldl (fun q k => q.withdraw k) (s.freedNotices g) =
      if s.image.segments[g].waiting = [] then s.notices
      else s.image.segments[g].waiting.foldl (fun q k => q.withdraw k) (s.notices.post (.imageFault g .freed)) := by
  unfold State.freedNotices
  split
  · rename_i hw
    rw [hw]
    rfl
  · rfl

/-- sfree of a segment that is not EMPTY and that no window refers to (R119). -/
theorem exec_sfree_unreferenced (ha : Accepts s) (hopen : s.host.stalled = none) (hl : s.image.segments[g].live = some l)
    (hf : s.windows.firstReferring g = none) :
    exec (.sfree seq [indexByte g]) s = .next
      { s.image.segments[g].waiting.foldl (State.workMember g) (s.turned g none (s.freedNotices g)) with
        port := replied s.port 5 0x54 seq .done [BitVec.ofNat 8 s.image.segments[g].waiting.length] } := by
  by_cases hw : s.image.segments[g].waiting = []
  · rw [exec_sfree]
    refine exec_turned ha hopen 5 .sfree fun p => ?_
    simp only [sfreeBody, indexOf_segment, State.setPort_windows, State.setPort_image, hf, hl, State.freedNotices, hw, if_true]
    rfl
  · rw [State.freedNotices, if_neg hw]
    exact exec_sfree_waited ha hopen hl hw hf

end leaving

/-- Settles O39: the wait list is worked through against a segment that is FAILED or EMPTY. -/
theorem abortAndFreeFaultTheWaiters : Obligations.AbortAndFreeFaultTheWaiters := by
  intro seq g l hs s ha hopen halone hl ks hnodup hheld after
  have hwaiters : Waiters s hs s.image.segments[g].waiting := ⟨hnodup, hheld, halone⟩
  refine ⟨fun hload => ?_, fun href => ?_⟩
  · have hexec := exec_sabort_loading (seq := seq) ha hopen hl hload
    rw [waiters_faulted (by rintro _ ⟨⟩; nofun) hwaiters] at hexec
    exact ⟨_, hexec, ⟨worked_setLive .., rfl, hopen, fun u => freedTags_get _ _ u, fun k => freedSlots_get _ _ _ k, rfl, rfl⟩, rfl⟩
  · have hnone : s.windows.firstReferring g = none := firstReferring_eq_none fun i => by
      rw [← Bool.not_eq_true, ← Bool.not_eq_true, refersTo_iff, refersTo_iff]
      exact ⟨href i _ List.mem_cons_self, href i _ (List.mem_cons_of_mem _ List.mem_cons_self)⟩
    have hexec := exec_sfree_unreferenced (seq := seq) ha hopen hl hnone
    rw [waiters_faulted (by nofun) hwaiters] at hexec
    exact ⟨_, hexec, ⟨worked_setLive .., rfl, hopen, fun u => freedTags_get _ _ u, fun k => freedSlots_get _ _ _ k, rfl, rfl⟩,
      freedNotices_withdrawn s g⟩

/-! ### Refusals (R117, R119, R190) -/

section refusals

variable {s : State} {g : Fin 16} {l : Live}

theorem sabortBody_empty (hl : s.image.segments[g].live = none) :
    sabortBody [indexByte g] s = s.answers .wrongState [0x00] := by
  simp only [sabortBody, indexOf_segment, hl, stateCode_none hl]

theorem sabortBody_wrongState (hl : s.image.segments[g].live = some l) (hs : l.state ≠ .loading) :
    sabortBody [indexByte g] s = s.answers .wrongState [l.state.code] := by
  simp only [sabortBody, indexOf_segment, hl, stateCode_some hl, if_pos hs]

theorem sabortBody_outside {a : Byte} (hout : 16 ≤ a.toNat) (s : State) : sabortBody [a] s = s.answers .invalid [] := by
  simp only [sabortBody, indexOf_eq_none.mpr hout]

theorem sfreeBody_outside {a : Byte} (hout : 16 ≤ a.toNat) (s : State) : sfreeBody [a] s = s.answers .invalid [] := by
  simp only [sfreeBody, indexOf_eq_none.mpr hout]

theorem sfreeBody_empty (hf : s.windows.firstReferring g = none) (hl : s.image.segments[g].live = none) :
    sfreeBody [indexByte g] s = s.answers .done [0x00] := by
  simp only [sfreeBody, indexOf_segment, hf, hl]

theorem sfreeBody_inUse {t : Byte} {i : Fin 24} (hf : s.windows.firstReferring g = some (t, i)) :
    sfreeBody [indexByte g] s = s.answers .inUse [t, indexByte i] := by
  simp only [sfreeBody, indexOf_segment, hf]

/-- The lowest index at which a window of either table refers to a segment is the one reported, STAGED where both do (R119, R190). -/
theorem firstReferring_eq_some {t : WindowTable} {i : Fin 24}
    (hbelow : ∀ j : Fin 24, j < i → t.staged[j].refersTo g = false ∧ t.active[j].refersTo g = false)
    (hi : t.staged[i].refersTo g = true ∨ t.active[i].refersTo g = true) :
    t.firstReferring g = some (if t.staged[i].refersTo g = true then 0x00 else 0x01, i) := by
  have hfind : (List.finRange 24).find? (fun j => t.staged[j].refersTo g || t.active[j].refersTo g) = some i :=
    findFin_some.mpr ⟨by simpa using hi, fun j hj => by rw [(hbelow j hj).1, (hbelow j hj).2]; rfl⟩
  rw [WindowTable.firstReferring, hfind]

end refusals

/-- Settles O40: the lowest referring index is found as R119 names it. -/
theorem abortAndFreeAreRefused : Obligations.AbortAndFreeAreRefused := by
  intro q s ha ends refers
  have hno : ∀ {r g}, ¬ refers r g → r.refersTo g = false := fun h => Bool.eq_false_of_not_eq_true (mt refersTo_iff.mp h)
  let z := s.setPort (handling s.port 5)
  have habort : ∀ {p r d}, sabortBody [p] z = z.answers r d → exec (.sabort q [p]) s = ends 0x53 r d := immediate_answers ha 5 .sabort q
  have hfree : ∀ {p r d}, sfreeBody [p] z = z.answers r d → exec (.sfree q [p]) s = ends 0x54 r d := immediate_answers ha 5 .sfree q
  refine ⟨fun g => ⟨fun hl => ?_, fun l hl => ?_, fun i hbelow => ?_, fun hnone hl => ?_⟩, fun a hout => ⟨?_, ?_⟩⟩
  · exact habort (sabortBody_empty (s := z) hl)
  · have hwrong := sabortBody_wrongState (s := z) hl
    refine ⟨fun hs => ?_, fun hs => ?_⟩
    · rw [hs] at hwrong
      exact habort (hwrong nofun)
    · rw [hs] at hwrong
      exact habort (hwrong nofun)
  · have hfirst := firstReferring_eq_some (t := s.windows) (i := i) fun j hj => ⟨hno (hbelow j hj).1, hno (hbelow j hj).2⟩
    refine ⟨fun hstaged => ?_, fun hstaged hactive => ?_⟩
    · have hstaged' := refersTo_iff.mpr hstaged
      have hf := hfirst (.inl hstaged')
      rw [if_pos hstaged'] at hf
      exact hfree (sfreeBody_inUse (s := z) hf)
    · have hf := hfirst (.inr (refersTo_iff.mpr hactive))
      rw [if_neg (mt refersTo_iff.mp hstaged)] at hf
      exact hfree (sfreeBody_inUse (s := z) hf)
  · exact hfree (sfreeBody_empty (s := z) (firstReferring_eq_none fun i => ⟨hno (hnone i).1, hno (hnone i).2⟩) hl)
  · exact habort (sabortBody_outside hout z)
  · exact hfree (sfreeBody_outside hout z)

end Sys2Proof.Machine
end

section
/-! What is read and changes nothing: the bytes of a segment, its record, and the status of the part (R120, R121, R182, R194). -/

namespace Sys2Proof.Machine

open Claims

/-! ### sread (R120) -/

section sread

variable {s : State} {g : Fin 16} {offset : Nat} {n : Byte} {l : Live}

theorem sreadBody_outside {a : Byte} (hout : 16 ≤ a.toNat) (offset : Nat) (n : Byte) (s : State) :
    sreadBody (a :: (le 2 offset ++ [n])) s = s.answers .invalid [] := by
  simp only [sreadBody, le, List.cons_append, List.nil_append, indexOf_eq_none.mpr hout]

/-- A parameter of sread outside its set is INVALID, whatever its segment byte (R120). -/
theorem sreadBody_invalid (a : Byte) (ho : offset < 65536) (hbad : 16383 < offset ∨ n = 0 ∨ 128 < n.toNat) (s : State) :
    sreadBody (a :: (le 2 offset ++ [n])) s = s.answers .invalid [] := by
  simp only [sreadBody, le, List.cons_append, List.nil_append, fromLE_le_two ho, if_pos hbad]
  split <;> rfl

variable (ho : offset ≤ 16383) (h1 : 1 ≤ n.toNat) (h128 : n.toNat ≤ 128)

include ho h1 h128

theorem not_sread_invalid : ¬ (16383 < offset ∨ n = 0 ∨ 128 < n.toNat) := by
  rintro (hlate | rfl | hlong)
  · omega
  · exact absurd h1 (by decide)
  · omega

theorem sreadBody_empty (hl : s.image.segments[g].live = none) :
    sreadBody (indexByte g :: (le 2 offset ++ [n])) s = s.answers .wrongState [0x00] := by
  simp only [sreadBody, le, List.cons_append, List.nil_append, indexOf_segment, fromLE_le_two (show offset < 65536 by omega),
    if_neg (not_sread_invalid ho h1 h128), hl, stateCode_none hl]

theorem sreadBody_live (hl : s.image.segments[g].live = some l) :
    sreadBody (indexByte g :: (le 2 offset ++ [n])) s =
      if l.length < offset + n.toNat then s.answers .badLength (le 2 l.length)
      else s.answers .done (readBytes s.image.bytes (l.base + offset) n.toNat) := by
  simp only [sreadBody, le, List.cons_append, List.nil_append, indexOf_segment, fromLE_le_two (show offset < 65536 by omega),
    if_neg (not_sread_invalid ho h1 h128), hl]

end sread

/-- The bytes of a range, position by position (R120). -/
theorem readBytes_getElem (m : List Host.Cell) (a n i : Nat) (hi : i < (readBytes m a n).length) :
    (readBytes m a n)[i] = byteAt m (a + i) := by
  simp [readBytes]

/-- Settles O41: the checks of R120 in their order, and the bytes position by position. -/
theorem sreadReturnsSegmentBytes : Obligations.SreadReturnsSegmentBytes := by
  intro q a n offset s ha hoff p answer
  let z := s.setPort (handling s.port 8)
  have hanswer : ∀ {r d}, sreadBody p z = z.answers r d → answer r d := immediate_answers ha 8 .sread q
  refine ⟨fun hbad => ?_, ?_⟩
  · obtain hout | hbad := hbad
    · exact hanswer (sreadBody_outside hout offset n z)
    · exact hanswer (sreadBody_invalid a hoff hbad z)
  · rintro g rfl ho h1 h128
    refine ⟨fun hl => hanswer (sreadBody_empty (s := z) ho h1 h128 hl), fun l hl => ?_⟩
    have hbody := sreadBody_live (s := z) ho h1 h128 hl
    refine ⟨fun hlong => hanswer (hbody.trans (if_pos hlong)), fun hfit => ?_⟩
    exact ⟨_, hanswer (hbody.trans (if_neg (Nat.not_lt.mpr hfit))), readBytes_length _ _ _, fun i => readBytes_getElem _ _ _ _ i.isLt⟩

/-! ### sinfo (R121, R194) -/

section sinfo

variable {s : State} {g : Fin 16} {l : Live}

theorem sinfoBody_segment (g : Fin 16) (s : State) : sinfoBody [indexByte g] s = s.answers .done (s.segmentRecord g) := by
  simp only [sinfoBody, indexOf_segment]

theorem sinfoBody_outside {a : Byte} (hout : 16 ≤ a.toNat) (s : State) : sinfoBody [a] s = s.answers .invalid [] := by
  simp only [sinfoBody, indexOf_eq_none.mpr hout]

/-- The waiters' part of a segment record: their number, and each with its slot's use (R194). -/
def State.waitersShown (s : State) (g : Fin 16) : List Byte :=
  BitVec.ofNat 8 s.image.segments[g].waiting.length ::
    s.image.segments[g].waiting.flatMap fun k => [indexByte k, s.hold.slots[k].use]

theorem segmentRecord_empty (hl : s.image.segments[g].live = none) :
    s.segmentRecord g = [indexByte g, 0, 0, 0, 0, 0, 0, 0] ++ s.waitersShown g := by
  simp only [State.segmentRecord, hl, stateCode_none hl]
  rfl

theorem segmentRecord_live (hl : s.image.segments[g].live = some l) :
    s.segmentRecord g =
      [indexByte g, l.state.code] ++ le 2 l.base ++ le 2 l.length ++ le 2 l.cursor ++ s.waitersShown g := by
  simp only [State.segmentRecord, hl, stateCode_some hl]
  rfl

end sinfo

/-! ### status (R182, R194) -/

/-- The slots HELD for a reason, counted by slot number (R182). -/
theorem heldFor_eq (h : HoldTable) (r : Reason) :
    h.heldFor r = (List.finRange 16).countP fun k => match h.slots[k].hold with | none => false | some x => x.reason = r := by
  rw [HoldTable.heldFor, countWhere_eq]
  refine List.countP_congr fun k _ => ?_
  cases h.slots[k].hold <;> simp

/-- Settles O42: each record in the layout of R194. -/
theorem sinfoAndStatusReadTheirRecords : Obligations.SinfoAndStatusReadTheirRecords := by
  intro q s ha
  let z := s.setPort (handling s.port 5)
  refine ⟨fun g => ⟨fun hl => ?_, fun l hl => ?_⟩, fun a hout => ?_, ?_⟩
  · exact immediate_answers ha 5 .sinfo q ((sinfoBody_segment g z).trans (congrArg _ (segmentRecord_empty (s := z) hl)))
  · have hcode : l.state.code = match l.state with | .loading => 0x01 | .ready => 0x02 | .failed => 0x03 := by
      cases l.state <;> rfl
    have hexec := immediate_answers ha 5 .sinfo q ((sinfoBody_segment g z).trans (congrArg _ (segmentRecord_live (s := z) hl)))
    rw [hcode] at hexec
    exact hexec
  · exact immediate_answers ha 5 .sinfo q (sinfoBody_outside hout z)
  · intro held count
    have hlink : (if s.host.stalled.isSome = true then 0x01 else 0x00 : Byte) = if s.host.stalled = none then 0x00 else 0x01 := by
      cases s.host.stalled <;> rfl
    have hrecord : exec (.status q []) s = .next { s with port := replied s.port 4 0x70 q .done s.statusRecord } :=
      immediate_answers ha 4 .status q rfl
    rw [State.statusRecord, table_toList, List.map_map, heldFor_eq, heldFor_eq, heldFor_eq, countWhere_eq, countWhere_eq,
      hlink] at hrecord
    exact hrecord

end Sys2Proof.Machine
end

section
/-! The values that the manual writes out: its CRC check values, its example frame, and the examples beside it (R114, R169 to R173,
R189). -/

namespace Sys2Proof.Machine

/-- The check values of the two CRCs over the characters 1 to 9 (R114, R172). -/
theorem crc_check_values :
    crc8 [0x31, 0x32, 0x33, 0x34, 0x35, 0x36, 0x37, 0x38, 0x39] = 0xF4 ∧
    crc32 [0x31, 0x32, 0x33, 0x34, 0x35, 0x36, 0x37, 0x38, 0x39] = 0xCBF43926 := by
  decide +kernel

/-- Settles O6: closed values, which the model computes. -/
theorem framesAndCRCsOfTheManual : Obligations.FramesAndCRCsOfTheManual := by
  refine ⟨crc_check_values, ?_, ?_, ?_, ?_⟩
  · decide +kernel
  · decide +kernel
  · rfl
  · rfl

end Sys2Proof.Machine
end

section
/-! The link STALLED only on a well-formed request of a FREE tag, with every slot HELD, is kept by every step (R146 to R149): no event but an
admission makes a tag busy or stalls the link, and an event that frees a slot has the withheld request evaluated afresh. -/

namespace Sys2Proof.Machine

/-! ### What takes in no request -/

/-- An update that takes in no request: the link stays as it is, and every FREE tag stays FREE. -/
structure TakesNone (s t : State) : Prop where
  stalled : t.host.stalled = s.host.stalled
  tags : ∀ u : Fin 32, s.host.tags[u] = none → t.host.tags[u] = none

section quiet

variable {s t u : State}

theorem TakesNone.of_host (h : t.host = s.host) : TakesNone s t := by
  constructor
  · rw [h]
  · intro v hv
    rw [h]
    exact hv

theorem TakesNone.trans (h : TakesNone s t) (h' : TakesNone t u) : TakesNone s u :=
  ⟨h'.stalled.trans h.stalled, fun v hv => h'.tags v (h.tags v hv)⟩

theorem takesNone_setImage (s : State) (x : ImageStore) : TakesNone s (s.setImage x) := .of_host rfl

theorem takesNone_setIssue (s : State) (x : IssueUnit) : TakesNone s (s.setIssue x) := .of_host rfl

theorem takesNone_post (s : State) (d : Detail) : TakesNone s (s.post d) := .of_host rfl

theorem takesNone_respond (s : State) (v : Fin 32) (st : HostStatus) (d : List Byte) : TakesNone s (s.respond v st d) :=
  ⟨rfl, fun _ h => h⟩

/-- A tag's entry replaced, with none where there was none. -/
theorem takesNone_setTag (s : State) {v : Fin 32} {e : Option TagEntry} (he : s.host.tags[v] = none → e = none) :
    TakesNone s (s.setTag v e) := by
  refine ⟨rfl, fun x hx => (table_set_get _ _ _ _).trans ?_⟩
  split
  · rename_i hv
    subst hv
    exact he hx
  · exact hx

theorem takesNone_freeTag (s : State) (v : Fin 32) : TakesNone s (s.setTag v none) := takesNone_setTag s fun _ => rfl

theorem takesNone_moveTag (s : State) (v : Fin 32) (p : TagPlace) : TakesNone s (s.moveTag v p) :=
  takesNone_setTag s fun h => by rw [h, Option.map_none]

theorem takesNone_freeSlot (s : State) (k : Fin 16) (o : LastOutcome) : TakesNone s (s.freeSlot k o) := by
  cases hk : s.hold.slots[k].hold with
  | none => rw [freeSlot_free hk]; exact .of_host rfl
  | some h => rw [freeSlot_held hk]; exact .of_host rfl

theorem takesNone_answerSlot (s : State) (k : Fin 16) (h : Hold) (st : HostStatus) (d : List Byte) (o : LastOutcome) :
    TakesNone s (s.answerSlot k h st d o) :=
  ((takesNone_respond s _ st d).trans (takesNone_freeSlot _ k o)).trans (takesNone_freeTag _ _)

theorem takesNone_forwardSlot (s : State) (k : Fin 16) (h : Hold) (e : IssueEntry) (o : LastOutcome) :
    TakesNone s (s.forwardSlot k h e o) :=
  ((takesNone_setIssue s _).trans (takesNone_freeSlot _ k o)).trans (takesNone_moveTag _ _ _)

/-- SERVE writes bytes or posts a notice (R122, R123, R125). -/
theorem serve_host (s : State) (g : Fin 16) (p : Nat) (r : HostRequest) : (s.serve g p r).1.host = s.host := by
  unfold State.serve
  split
  · split_ifs <;> rfl
  · rfl

theorem takesNone_answerServed (s : State) (k : Fin 16) (h : Hold) (out : Option (List Byte)) :
    TakesNone s (s.answerServed k h out) := by
  cases out <;> exact takesNone_answerSlot s _ _ _ _ _

theorem takesNone_startHead (s : State) (k : Fin 16) (h : Hold) : TakesNone s (s.startHead k h).1 := by
  unfold State.startHead
  split
  · exact takesNone_forwardSlot s _ _ _ _
  · exact .of_host rfl
  · split
    · exact .of_host rfl
    · exact (TakesNone.of_host (serve_host s _ _ _)).trans (takesNone_answerServed _ _ _ _)
  · exact takesNone_answerSlot s _ _ _ _ _
  · exact takesNone_answerSlot s _ _ _ _ _

theorem takesNone_cascade (w : Fin 24) (l : List (Fin 32)) (s : State) : TakesNone s (State.cascade w l s) := by
  induction l generalizing s with
  | nil => exact .of_host rfl
  | cons v rest ih =>
    unfold State.cascade
    split
    · exact .of_host rfl
    · rename_i k h _
      have hstart := takesNone_startHead s k h
      split <;> rename_i he <;> rw [he] at hstart
      · exact hstart.trans (ih _)
      · exact hstart.trans (.of_host rfl)

theorem takesNone_advance (s : State) (v : Fin 32) (e : Option TagEntry) : TakesNone s (s.advance v e) := by
  unfold State.advance
  split
  · split
    · split
      · exact takesNone_cascade _ _ s
      · exact .of_host rfl
    · exact .of_host rfl
  · exact .of_host rfl

theorem takesNone_endHold (s : State) (k : Fin 16) (h : Hold) (st : HostStatus) (d : List Byte) (o : LastOutcome) :
    TakesNone s (s.endHold k h st d o) :=
  (takesNone_answerSlot s _ _ _ _ _).trans (takesNone_advance _ _ _)

theorem takesNone_workMember (g : Fin 16) (s : State) (k : Fin 16) : TakesNone s (State.workMember g s k) := by
  refine (takesNone_setImage s (s.image.setWaiting g (s.image.segments[g].waiting.filter fun j => j ≠ k))).trans ?_
  unfold State.workMember
  dsimp only
  split
  · exact .of_host rfl
  · split
    · exact ((TakesNone.of_host (serve_host _ _ _ _)).trans (takesNone_answerServed _ _ _ _)).trans (takesNone_advance _ _ _)
    · exact takesNone_endHold _ _ _ _ _ _

theorem takesNone_foldl {α : Type} {f : State → α → State} (hf : ∀ s a, TakesNone s (f s a)) (l : List α) (s : State) :
    TakesNone s (l.foldl f s) := by
  induction l generalizing s with
  | nil => exact .of_host rfl
  | cons a rest ih => exact (hf s a).trans (ih (f s a))

theorem takesNone_workThrough (s : State) (g : Fin 16) : TakesNone s (s.workThrough g) :=
  takesNone_foldl (takesNone_workMember g) _ s

theorem takesNone_expire (s : State) (k : Fin 16) (h : Hold) : TakesNone s (s.expire k h) := by
  refine (takesNone_setImage s (s.image.leaveLists k)).trans ?_
  unfold State.expire
  dsimp only
  split
  · exact ((takesNone_answerSlot _ _ _ _ _ _).trans (takesNone_post _ _)).trans (takesNone_advance _ _ _)
  · exact (takesNone_forwardSlot _ _ _ _ _).trans (takesNone_post _ _)

/-- A clearall leaves the link as it is, and no tag busy that was FREE (R52, R168). -/
theorem takesNone_clearBlocks (s : State) : TakesNone s s.clearBlocks := by
  obtain ⟨hstall, -, -⟩ := Steady.keeps (s := s) (f := State.clearBlocks) fun t x p n => clearBlocks_framed t x p n
  refine ⟨hstall, fun v hv => ?_⟩
  have hfree : s.refuseAll.host.tags[v] = none := refuse_tag_free s _ hv
  refine (tableMap_get _ s.refuseAll.host.tags v).trans ?_
  rw [hfree, Option.map_none]

theorem takesNone_grantOffer (s : State) : TakesNone s (grantOffer s) := by
  unfold grantOffer
  split
  · exact .of_host rfl
  · exact (takesNone_setIssue s _).trans (takesNone_moveTag _ _ _)

end quiet

/-! ### Evaluation and the freeing that an event reports (R146 to R149) -/

section law

variable {s t : State} {r : HostRequest}

/-- An OPEN link withholds nothing. -/
theorem State.stallLawful_of_open (h : s.host.stalled = none) : s.StallLawful := by
  intro q hq
  rw [h] at hq
  cases hq

/-- A well-formed request of a FREE tag, withheld while every slot is HELD. -/
theorem State.stallLawful_of_stalled (h : s.host.stalled = some r) (hm : malformed r = false) (ht : s.host.tags[r.tag] = none)
    (hfull : s.hold.lowestFree = none) : s.StallLawful := by
  intro q hq
  obtain rfl : r = q := Option.some.inj (h.symm.trans hq)
  exact ⟨hm, ht, fun k => Option.isSome_iff_ne_none.mpr (lowestFree_eq_none.mp hfull k)⟩

theorem dispatch_stalled (s : State) (r : HostRequest) (d : Decision) (k : Option (Fin 16)) :
    (s.dispatch r d k).host.stalled = s.host.stalled := by
  obtain ⟨hstall, -, -⟩ := Steady.keeps (s := s) (f := fun t => t.dispatch r d k) fun t x p n => dispatch_framed t x p n r d k
  exact hstall

theorem dispatchDefault_stalled (s : State) (r : HostRequest) : (s.dispatchDefault r).host.stalled = s.host.stalled := by
  obtain ⟨hstall, -, -⟩ := Steady.keeps (s := s) (f := fun t => t.dispatchDefault r) fun t x p n => dispatchDefault_framed t x p n r
  exact hstall

/-- An evaluation leaves the link OPEN, or STALLED on its request for want of a slot (R142, R146). -/
theorem State.evaluate_stallLawful {again : Bool} (h : again = true → s.host.stalled = some r) :
    (s.evaluate again r).StallLawful := by
  cases ht : s.host.tags[r.tag] with
  | some e =>
    rw [evaluate_clash (by rw [ht]; rfl)]
    exact State.stallLawful_of_open rfl
  | none =>
    cases hm : malformed r with
    | true =>
      rw [evaluate_malformed ht hm]
      exact State.stallLawful_of_open rfl
    | false =>
      cases hs : s.windows.straddles (s.windows.matched r.addr) r.addr r.len.toNat with
      | true =>
        rw [evaluate_straddle ht hm hs]
        exact State.stallLawful_of_open rfl
      | false =>
        cases hw : s.windows.matched r.addr with
        | none =>
          rw [evaluate_default ht hm hw (hw ▸ hs)]
          exact State.stallLawful_of_open (dispatchDefault_stalled _ r)
        | some w =>
          rw [evaluate_window ht hm hw (hw ▸ hs)]
          split
          · rename_i hslot
            have hfull : s.hold.lowestFree = none := Option.isNone_iff_eq_none.mp (Bool.and_eq_true_iff.mp hslot).2
            cases again with
            | true => exact State.stallLawful_of_stalled (h rfl) hm ht hfull
            | false => exact State.stallLawful_of_stalled (s := s.stall r w) rfl hm ht hfull
          · refine State.stallLawful_of_open ((dispatch_stalled _ r _ _).trans ?_)
            rw [countAccepted_host]
            rfl

/-- What takes in no request and frees no slot leaves the request withheld. -/
theorem State.StallLawful.of_takesNone (hs : s.StallLawful) (h : TakesNone s t)
    (hheld : ∀ k : Fin 16, s.hold.slots[k].hold.isSome = true → t.hold.slots[k].hold.isSome = true) : t.StallLawful := by
  intro q hq
  obtain ⟨hm, ht, hfull⟩ := hs q (h.stalled ▸ hq)
  exact ⟨hm, h.tags _ ht, fun k => hheld k (hfull k)⟩

/-- What takes in no request, with the freeing it reports: where it freed a slot the withheld request is evaluated afresh, and else every
slot is HELD still (R148). -/
theorem State.StallLawful.reportFreeing (hs : s.StallLawful) (h : TakesNone s t) : (t.reportFreeing s).StallLawful := by
  cases hst : t.host.stalled with
  | none =>
    rw [reportFreeing_open s hst]
    exact State.stallLawful_of_open hst
  | some q =>
    obtain ⟨hm, ht, hfull⟩ := hs q (h.stalled ▸ hst)
    by_cases hlt : t.hold.heldCount < s.hold.heldCount
    · rw [reportFreeing_freed hst hlt]
      exact State.evaluate_stallLawful fun _ => hst
    · rw [reportFreeing_held hlt]
      have hheld : ∀ k : Fin 16, s.hold.slots[k].hold ≠ none := fun k => Option.isSome_iff_ne_none.mp (hfull k)
      have hstill : t.hold.lowestFree = none := not_not.mp ((heldCount_lt_iff hheld).not.mp hlt)
      exact State.stallLawful_of_stalled hst hm (h.tags _ ht) hstill

end law

end Sys2Proof.Machine
end

section
/-! Every command and event keeps the link STALLED only on a well-formed request of a FREE tag, with every slot HELD, and so does every step
(R146 to R149). -/

namespace Sys2Proof.Machine

section stall

variable {s t : State}

/-! ### Slots that stay HELD -/

theorem State.StallLawful.setNotices (hs : s.StallLawful) (q : NoticeQueue) : (s.setNotices q).StallLawful := hs

/-- A slot that holds a request holds it still when what is known of it changes. -/
theorem State.StallLawful.putHold (hs : s.StallLawful) (k : Fin 16) (h : Hold) : (s.putHold k h).StallLawful := by
  refine hs.of_takesNone (.of_host rfl) fun j hj => ?_
  have hset : (s.putHold k h).hold.slots[j] = if k = j then { s.hold.slots[k] with hold := some h } else s.hold.slots[j] :=
    table_set_get _ _ _ _
  rw [hset]
  split
  · rfl
  · exact hj

theorem State.StallLawful.markHold (hs : s.StallLawful) (d : Detail) (x : NoticeState) : (s.markHold d x).StallLawful := by
  unfold State.markHold
  split
  · split
    · split
      · exact hs.putHold _ _
      · exact hs
    · exact hs
  · exact hs

/-- Time that passes frees no slot (R39). -/
theorem State.StallLawful.elapse (hs : s.StallLawful) (d : Nat) : (s.setHold (s.hold.elapse d)).StallLawful := by
  refine hs.of_takesNone (.of_host rfl) fun k hk => ?_
  have hslot : (s.setHold (s.hold.elapse d)).hold.slots[k] = s.hold.slots[k].elapse d := elapse_slot s.hold d k
  rw [hslot, Slot.elapse, Option.isSome_map]
  exact hk

/-! ### The bodies of the commands -/

section bodies

variable (p : List Byte) (hs : s.StallLawful)

include hs

theorem State.StallLawful.wsetBody : (wsetBody p s).after.StallLawful := by
  unfold Machine.wsetBody
  repeat' split
  all_goals exact hs

theorem State.StallLawful.wclearBody : (wclearBody p s).after.StallLawful := by
  unfold Machine.wclearBody
  repeat' split
  all_goals exact hs

theorem State.StallLawful.wdefaultBody : (wdefaultBody p s).after.StallLawful := by
  unfold Machine.wdefaultBody
  repeat' split
  all_goals exact hs

theorem State.StallLawful.wzeroBody : (wzeroBody p s).after.StallLawful := by
  unfold Machine.wzeroBody
  repeat' split
  all_goals exact hs

theorem State.StallLawful.tsetBody : (tsetBody p s).after.StallLawful := by
  unfold Machine.tsetBody
  repeat' split
  all_goals exact hs

theorem State.StallLawful.sloadBody : (sloadBody p s).after.StallLawful := by
  unfold Machine.sloadBody
  dsimp only
  repeat' split
  all_goals exact hs

theorem State.StallLawful.sdataBody : (sdataBody p s).after.StallLawful := by
  unfold Machine.sdataBody
  dsimp only
  repeat' split
  all_goals exact hs

theorem State.StallLawful.nfetchBody : (nfetchBody p s).after.StallLawful := by
  unfold Machine.nfetchBody
  split
  · exact hs
  · split
    · exact hs
    · dsimp only
      split
      · exact hs
      · exact (hs.setNotices _).markHold _ _

theorem State.StallLawful.nackBody : (nackBody p s).after.StallLawful := by
  unfold Machine.nackBody
  split
  · split
    · split
      · exact (hs.setNotices _).markHold _ _
      · exact hs
    · exact hs
  · exact hs

/-- A decision command leaves what its function leaves for a current hold of reason DEFER, and otherwise the state. -/
theorem State.StallLawful.withDefer (slot use : Byte) {f : Fin 16 → Hold → Answer} (hf : ∀ k h, (f k h).after.StallLawful) :
    (s.withDefer slot use f).after.StallLawful := by
  unfold State.withDefer State.withCurrent
  split
  · exact hs
  · dsimp only
    split
    · split
      · split
        · exact hf _ _
        · exact hs
      · exact hs
    · exact hs

/-- A decision that answers its hold reports the slot it frees (R72, R148). -/
theorem State.StallLawful.decided_answer (k : Fin 16) (h : Hold) (st : HostStatus) (d : List Byte) (o : LastOutcome) :
    (s.decided (s.endHold k h st d o)).after.StallLawful :=
  hs.reportFreeing (takesNone_endHold s k h st d o)

theorem State.StallLawful.hdataBody : (hdataBody p s).after.StallLawful := by
  unfold Machine.hdataBody
  split
  · split
    · exact hs
    · refine hs.withDefer _ _ fun k h => ?_
      split_ifs
      · exact hs
      · exact hs
      · exact hs.decided_answer k h _ _ _
  · exact hs

theorem State.StallLawful.hdoneBody : (hdoneBody p s).after.StallLawful := by
  unfold Machine.hdoneBody
  split
  · split
    · exact hs
    · refine hs.withDefer _ _ fun k h => ?_
      split_ifs
      · exact hs
      · exact hs
      · exact hs.decided_answer k h _ _ _
  · exact hs

theorem State.StallLawful.hfwdBody : (hfwdBody p s).after.StallLawful := by
  unfold Machine.hfwdBody
  split
  · split
    · exact hs
    · rename_i x _
      refine hs.withDefer _ _ fun k h => ?_
      have hsent : (s.decided (s.forwardSlot k h (x.entry h) .forwarded)).after.StallLawful :=
        hs.reportFreeing (takesNone_forwardSlot s k h _ _)
      split_ifs
      · exact hs
      · exact hs
      · exact hs
      · exact hsent
  · exact hs

theorem State.StallLawful.hrefuseBody : (hrefuseBody p s).after.StallLawful := by
  unfold Machine.hrefuseBody
  split
  · refine hs.withDefer _ _ fun k h => ?_
    split_ifs
    · exact hs.decided_answer k h _ _ _
    · exact hs.decided_answer k h _ _ _
    · exact hs
  · exact hs

theorem State.StallLawful.hrenewBody : (hrenewBody p s).after.StallLawful := by
  unfold Machine.hrenewBody
  split
  · refine hs.withDefer _ _ fun k h => ?_
    dsimp only
    split
    · exact hs
    · exact hs.putHold k _
  · exact hs

/-- A wait list worked through after the link has been left as it was reports the slots it frees (R126, R148). -/
theorem State.StallLawful.worked (ht : t.host = s.host) (g : Fin 16) : ((t.workThrough g).reportFreeing s).StallLawful :=
  hs.reportFreeing ((TakesNone.of_host ht).trans (takesNone_workThrough t g))

theorem State.StallLawful.sabortBody : (sabortBody p s).after.StallLawful := by
  unfold Machine.sabortBody
  split
  · split
    · exact hs
    · split
      · exact hs
      · split
        · exact hs
        · refine hs.worked ?_ _
          rfl
  · exact hs

theorem State.StallLawful.sfreeBody : (sfreeBody p s).after.StallLawful := by
  unfold Machine.sfreeBody
  split
  · split
    · exact hs
    · split
      · exact hs
      · split
        · exact hs
        · refine hs.worked ?_ _
          split <;> rfl
  · exact hs

end bodies

/-! ### Frames (R169 to R184) -/

theorem State.StallLawful.takeCommit (hs : s.StallLawful) (q : Byte) (p : List Byte) : (takeCommit q p s).StallLawful := by
  unfold Machine.takeCommit
  split <;> exact hs

theorem State.StallLawful.takeClearall (hs : s.StallLawful) (q : Byte) (p : List Byte) : (takeClearall q p s).StallLawful := by
  unfold Machine.takeClearall
  split <;> exact hs

theorem State.StallLawful.takeScheck (hs : s.StallLawful) (q : Byte) (p : List Byte) : (takeScheck q p s).StallLawful := by
  unfold Machine.takeScheck
  dsimp only
  repeat' split
  all_goals exact hs

/-- An immediate command leaves what its body leaves, with another port. -/
theorem State.StallLawful.immediately {f : State → Answer} (hf : (f s).after.StallLawful) (c : Command) (q : Byte) :
    (s.immediately c q f).StallLawful := hf

theorem State.StallLawful.takeCommand (hs : s.StallLawful) (c : Command) (q : Byte) (p : List Byte) :
    (takeCommand c q p s).StallLawful := by
  cases c with
  | wset => exact State.StallLawful.immediately (hs.wsetBody p) _ q
  | wclear => exact State.StallLawful.immediately (hs.wclearBody p) _ q
  | wdefault => exact State.StallLawful.immediately (hs.wdefaultBody p) _ q
  | wread => exact State.StallLawful.immediately ((wreadBody_after p s).symm ▸ hs) _ q
  | commit => exact hs.takeCommit q p
  | wstats => exact State.StallLawful.immediately ((wstatsBody_after p s).symm ▸ hs) _ q
  | wzero => exact State.StallLawful.immediately (hs.wzeroBody p) _ q
  | tset => exact State.StallLawful.immediately (hs.tsetBody p) _ q
  | hread => exact State.StallLawful.immediately ((hreadBody_after p s).symm ▸ hs) _ q
  | hdata => exact State.StallLawful.immediately (hs.hdataBody p) _ q
  | hdone => exact State.StallLawful.immediately (hs.hdoneBody p) _ q
  | hfwd => exact State.StallLawful.immediately (hs.hfwdBody p) _ q
  | hrefuse => exact State.StallLawful.immediately (hs.hrefuseBody p) _ q
  | hrenew => exact State.StallLawful.immediately (hs.hrenewBody p) _ q
  | nfetch => exact State.StallLawful.immediately (hs.nfetchBody p) _ q
  | nack => exact State.StallLawful.immediately (hs.nackBody p) _ q
  | sload => exact State.StallLawful.immediately (hs.sloadBody p) _ q
  | sdata => exact State.StallLawful.immediately (hs.sdataBody p) _ q
  | scheck => exact hs.takeScheck q p
  | sabort => exact State.StallLawful.immediately (hs.sabortBody p) _ q
  | sfree => exact State.StallLawful.immediately (hs.sfreeBody p) _ q
  | sread => exact State.StallLawful.immediately ((sreadBody_after p s).symm ▸ hs) _ q
  | sinfo => exact State.StallLawful.immediately ((sinfoBody_after p s).symm ▸ hs) _ q
  | status => exact State.StallLawful.immediately ((statusBody_after p s).symm ▸ hs) _ q
  | clearall => exact hs.takeClearall q p

theorem State.StallLawful.takeFrame (hs : s.StallLawful) (n : Nat) {f : State → State}
    (hf : ∀ z : State, z.StallLawful → (f z).StallLawful) : (s.takeFrame n f).StallLawful := by
  unfold State.takeFrame
  dsimp only
  split
  · exact hs
  · exact hf _ hs
  · exact hf _ hs

theorem State.StallLawful.takePoll (hs : s.StallLawful) (rest : List Byte) : (takePoll rest s).StallLawful := by
  unfold Machine.takePoll
  dsimp only
  split <;> exact hs

theorem State.StallLawful.handleRaw (hs : s.StallLawful) (b : List Byte) (cut : Bool) : (handleRaw b cut s).StallLawful := by
  unfold Machine.handleRaw
  dsimp only
  split
  · exact hs
  · split
    · exact hs
    · exact hs.takeCommand _ _ _

theorem State.StallLawful.takeRaw (hs : s.StallLawful) (b : List Byte) (cut : Bool) : (takeRaw b cut s).StallLawful := by
  unfold Machine.takeRaw
  split
  · exact hs
  · split
    · exact hs.takePoll _
    · exact hs.takeFrame _ fun _ hz => hz.handleRaw _ cut

/-! ### The two links and the deadlines -/

/-- An offer to an OPEN link is evaluated; a STALLED link takes none (R138, R147). -/
theorem State.StallLawful.offer (hs : s.StallLawful) (r : HostRequest) : (offer r s).StallLawful := by
  cases hst : s.host.stalled with
  | none =>
    rw [offer_open hst]
    exact State.evaluate_stallLawful nofun
  | some q =>
    rw [offer_stalled hst]
    exact hs

theorem grantOffer_hold (s : State) : (grantOffer s).hold = s.hold := by
  unfold grantOffer
  split <;> rfl

theorem State.StallLawful.grantOffer (hs : s.StallLawful) : (grantOffer s).StallLawful :=
  hs.of_takesNone (takesNone_grantOffer s) fun k hk => by rw [grantOffer_hold]; exact hk

theorem State.StallLawful.returnResponse (hs : s.StallLawful) (m : Fin 16) (v : Fin 32) (a : Addr) (out : Option (List Byte)) :
    (s.returnResponse m v a out).StallLawful := by
  have hback : ∀ told : State, TakesNone s told →
      ((((told.freeMemTag m).setTag v none).advance v s.host.tags[v]).reportFreeing s).StallLawful := fun told ht =>
    hs.reportFreeing (((ht.trans (takesNone_setIssue told _)).trans (takesNone_freeTag _ v)).trans (takesNone_advance _ v _))
  cases out with
  | some d => exact hback _ (takesNone_respond s v .ok d)
  | none => exact hback _ ((takesNone_post s _).trans (takesNone_respond _ v .fault []))

theorem State.StallLawful.memoryAnswer (hs : s.StallLawful) (m : MemResponse) : (memoryAnswer m s).StallLawful := by
  unfold Machine.memoryAnswer
  split
  · exact hs
  · split <;> exact hs
  · exact hs.returnResponse _ _ _ _

theorem State.StallLawful.runOut (hs : s.StallLawful) (k : Fin 16) : (runOut k s).StallLawful := by
  unfold Machine.runOut
  split
  · exact hs
  · split
    · exact hs
    · exact (hs.elapse _).reportFreeing (takesNone_expire _ _ _)

/-- A host link reset opens the link (R151). -/
theorem resetLink_stallLawful (s : State) : (resetLink s).StallLawful :=
  State.stallLawful_of_open (by rw [resetLink_eq])

/-! ### Completions and the pin -/

theorem State.StallLawful.completeCommit (hs : s.StallLawful) : (completeCommit s).StallLawful := by
  unfold Machine.completeCommit
  split
  · split <;> exact hs
  · exact hs

theorem judge_host (s : State) (g : Fin 16) (l : Live) (c : Word32) : (s.judge g l c).host = s.host := by
  unfold State.judge
  split <;> rfl

theorem State.StallLawful.completeScheck (hs : s.StallLawful) : (completeScheck s).StallLawful := by
  unfold Machine.completeScheck
  split
  · split
    · exact hs
    · exact hs.worked (judge_host s _ _ _) _
  · exact hs

theorem State.StallLawful.completeClearall (hs : s.StallLawful) : (completeClearall s).StallLawful := by
  unfold Machine.completeClearall
  split
  · exact hs.reportFreeing (takesNone_clearBlocks s)
  · exact hs

/-- The power-on state has the link OPEN (R166). -/
theorem State.StallLawful.movePin (hs : s.StallLawful) (l : PinLevel) : (movePin l s).StallLawful := by
  unfold Machine.movePin
  split
  · exact State.stallLawful_of_open rfl
  · exact State.stallLawful_of_open rfl
  · exact hs

/-! ### The step -/

theorem State.StallLawful.setPending (hs : s.StallLawful) (x : List Instr) : (s.setPending x).StallLawful := hs

theorem State.StallLawful.running {f : State → State} (hs : s.StallLawful) (hf : (f s).StallLawful) (ht : running s f = .next t) :
    t.StallLawful := by
  unfold Machine.running at ht
  split at ht <;> cases ht
  · exact hf
  · exact hs

theorem State.StallLawful.exec (hs : s.StallLawful) {i : Instr} (ht : exec i s = .next t) : t.StallLawful := by
  cases hc : i.asCommand with
  | some x =>
    obtain ⟨c, q, p⟩ := x
    rw [asCommand_eq hc, exec_instrOf] at ht
    exact hs.running (hs.takeFrame _ fun _ hz => hz.takeCommand c q p) ht
  | none =>
    cases i with
    | hostOffer r => exact hs.running (hs.offer r) ht
    | grant => exact hs.running hs.grantOffer ht
    | memoryResponse m => exact hs.running (hs.memoryAnswer m) ht
    | expiry k => exact hs.running (hs.runOut k) ht
    | hostLinkReset => exact hs.running (resetLink_stallLawful s) ht
    | resetn l =>
      rw [exec_resetn] at ht
      cases ht
      exact hs.movePin l
    | commitCompletion => exact hs.running hs.completeCommit ht
    | scheckCompletion => exact hs.running hs.completeScheck ht
    | clearallCompletion => exact hs.running hs.completeClearall ht
    | poll rest => exact hs.running (hs.takePoll rest) ht
    | unexecutedFrame b cut => exact hs.running (hs.takeRaw b cut) ht
    | shortFrame w =>
      rw [exec_shortFrame] at ht
      cases ht
      exact hs
    | _ => simp [Instr.asCommand] at hc

/-- Settles O59: an idle step by the elapsing of time, any other by the command executed. -/
theorem stallsStayLawful : Obligations.StallsStayLawful := by
  intro s t hs hstep
  unfold step at hstep
  split at hstep
  · cases hstep
    exact hs.elapse 1
  · rename_i rest _
    exact (hs.setPending rest).exec hstep

end stall

end Sys2Proof.Machine
end

section
/-! The offers that a check ends: the checks in the manual's own terms, and the statement about what answers them (R7, R8, R138 to R141). -/

namespace Sys2Proof.Machine

open Claims

/-! ### The checks -/

/-- A request that is not malformed (R133, R140). -/
theorem malformed_eq_false_iff {r : HostRequest} :
    malformed r = false ↔
      1 ≤ r.len.toNat ∧ r.addr.toNat % 128 + r.len.toNat ≤ 128 ∧ (r.op = .read → r.mask = none ∧ r.data = []) ∧
        (r.op = .write → r.data.length = r.len.toNat ∧ ∀ m ∈ r.mask, m.length = r.len.toNat) := by
  have hlen : 1 ≤ r.len.toNat ↔ ¬ r.len = 0#8 := by
    rw [← BitVec.toNat_inj]
    exact Nat.pos_iff_ne_zero
  have hblock : r.addr.toNat % 128 + r.len.toNat ≤ 128 ↔ inOneBlock r.addr.toNat r.len.toNat = true := inOneBlock_iff.symm
  rw [hlen, hblock]
  cases hop : r.op with
  | read => simp [malformed, hop, and_assoc]
  | write => cases hmask : r.mask <;> simp [malformed, hop, hmask, and_assoc]

/-- A range that a window does not hold runs past its end, or crosses a block where it is remapped (R7). -/
theorem holdsRange_eq_false_iff {x : WindowRecord} {a : Addr} {n : Nat} :
    x.holdsRange a n = false ↔
      x.base.toNat + x.size < a.toNat + n ∨
        ∃ t, x.remap = some t ∧ 128 < (t.toNat + (a.toNat - x.base.toNat)) % 128 + n := by
  rw [WindowRecord.holdsRange, Bool.and_eq_false_iff, decide_eq_false_iff_not, Nat.not_le]
  refine or_congr_right ?_
  cases hx : x.remap with
  | none => simp
  | some t => simp [WindowRecord.downstream, hx, inOneBlock, Config.block]

/-- The check of a request that matches a window (R7). -/
theorem straddles_window_iff {t : WindowTable} {w : Fin 24} {a : Addr} {n : Nat} :
    t.straddles (some w) a n = true ↔
      t.active[w].base.toNat + t.active[w].size < a.toNat + n ∨
        ∃ x, t.active[w].remap = some x ∧ 128 < (x.toNat + (a.toNat - t.active[w].base.toNat)) % 128 + n := by
  rw [WindowTable.straddles, Bool.not_eq_true']
  exact holdsRange_eq_false_iff

/-- A request that matches no window straddles where some of its bytes lie in one (R8). -/
theorem straddles_default_iff {t : WindowTable} {a : Addr} {n : Nat} :
    t.straddles none a n = true ↔ ∃ i : Fin 24, t.active[i].enabled = true ∧ t.active[i].base.toNat < a.toNat + n ∧
      a.toNat < t.active[i].base.toNat + t.active[i].size := by
  simp [WindowTable.straddles, table_toList, WindowRecord.meets, and_assoc]

/-! ### Their answers -/

section checked

variable {s : State} {r : HostRequest}

/-- A busy tag (R139). -/
theorem offered_clash {e : TagEntry} (hr : s.resetn = .high) (ho : s.host.stalled = none) (ht : s.host.tags[r.tag] = some e) :
    exec (.hostOffer r) s = .next { s with notices := s.notices.post (.tagClash r.tag) } := by
  rw [exec_hostOffer, running_high hr, offer_open ho, evaluate_clash (by rw [ht]; rfl), openLink_open ho]
  rfl

/-- A request that its evaluation answers FAULT with a REQ_ERROR changes the responses and the notices only (R140, R141). -/
theorem offered_fault {c : ReqCause} (hr : s.resetn = .high) (ho : s.host.stalled = none)
    (he : s.evaluate false r = (s.openLink.post (.reqError r.tag r.addr c)).respond r.tag .fault []) :
    exec (.hostOffer r) s = .next
      { s with
        host := answered s.host r.tag .fault []
        notices := s.notices.post (.reqError r.tag r.addr c) } := by
  rw [exec_hostOffer, running_high hr, offer_open ho, he, openLink_open ho]
  rfl

end checked

/-- Settles O43: each check by its own terms, against the match of the request. -/
theorem failedChecksEndTheOffer : Obligations.FailedChecksEndTheOffer := by
  intro r s hr ho fault n sound contains
  have match_iff : ∀ i : Fin 24, contains i ↔ s.windows.active[i].contains r.addr = true := fun i => contains_iff.symm
  refine ⟨fun e he => offered_clash hr ho he, fun ht hbad => ?_, fun ht hok => ?_⟩
  · have hm : malformed r = true := Bool.of_not_eq_false fun h => hbad (malformed_eq_false_iff.mp h)
    exact offered_fault hr ho (evaluate_malformed ht hm)
  · have hm : malformed r = false := malformed_eq_false_iff.mpr hok
    refine ⟨fun w hw hother hst => ?_, fun hnone hst => ?_⟩
    · have hmatch : s.windows.matched r.addr = some w :=
        matched_unique ((match_iff w).mp hw) fun i hi => by_contra fun hne => hother i hne ((match_iff i).mpr hi)
      exact offered_fault hr ho (evaluate_straddle ht hm (hmatch ▸ straddles_window_iff.mpr hst))
    · have hmatch : s.windows.matched r.addr = none :=
        matched_none fun i => Bool.eq_false_iff.mpr fun hi => hnone i ((match_iff i).mpr hi)
      obtain ⟨i, hen, habove, hbelow, -⟩ := hst
      have hmeets : s.windows.straddles none r.addr r.len.toNat = true :=
        straddles_default_iff.mpr ⟨i, hen, hbelow, habove.trans_le (Nat.le_add_right _ _)⟩
      exact offered_fault hr ho (evaluate_straddle ht hm (hmatch ▸ hmeets))

end Sys2Proof.Machine
end

section
/-! The memory link: what a grant issues and where a memory response goes (spec/08, R156 to R164). -/

namespace Sys2Proof.Machine

open Claims

/-! ### Grants (R156, R157) -/

section grant

variable {s : State} {u : IssueUnit} {e : IssueEntry} {rest : List IssueEntry} {m : Fin 16}

/-- The lowest FREE memory tag is the one that the search finds (R156). -/
theorem lowestFreeMemTag_eq_some :
    u.lowestFree = some m ↔ u.forward[m] = .free ∧ ∀ j : Fin 16, j < m → u.forward[j] ≠ .free := by
  rw [IssueUnit.lowestFree, lowest_eq_some]
  simp only [decide_eq_true_eq, decide_eq_false_iff_not, ne_eq]

/-- With no memory tag FREE the search finds none. -/
theorem lowestFreeMemTag_eq_none : u.lowestFree = none ↔ ∀ m : Fin 16, u.forward[m] ≠ .free := by
  rw [IssueUnit.lowestFree, lowest_eq_none]
  simp only [decide_eq_false_iff_not, ne_eq]

/-- The head is offered under the lowest FREE memory tag (R156). -/
theorem offer_of_head (hq : u.queue = e :: rest) (hm : u.lowestFree = some m) : u.offer = some (e, m) := by
  simp only [IssueUnit.offer, hq, hm]

/-- Nothing is offered from an empty queue, or with no memory tag FREE (R156). -/
theorem offer_eq_none (h : u.queue = [] ∨ u.lowestFree = none) : u.offer = none := by
  cases hq : u.queue with
  | nil => simp only [IssueUnit.offer, hq]
  | cons e rest =>
    have hm : u.lowestFree = none := h.resolve_left (by simp [hq])
    simp only [IssueUnit.offer, hq, hm]

/-- The fabric accepts the offer of the head (R157). -/
theorem grantOffer_of_head (hq : s.issue.queue = e :: rest) (hm : s.issue.lowestFree = some m) :
    grantOffer s =
      (s.setIssue
        { queue := rest
          forward := s.issue.forward.set m (.busy e.tag e.op e.len e.addr)
          sent := s.issue.sent ++ [e.issued m] }).moveTag e.tag (.forwarded m) := by
  simp only [grantOffer, offer_of_head hq hm, hq, List.drop_one, List.tail_cons]

/-- Without an offer a grant has no effect (log 7). -/
theorem grantOffer_of_none (h : s.issue.offer = none) : grantOffer s = s := by
  simp only [grantOffer, h]

end grant

/-- Settles O49: the offer is the head under the lowest FREE memory tag, and there is none without both. -/
theorem grantIssuesTheHead : Obligations.GrantIssuesTheHead := by
  intro s hr
  rw [exec_grant, running_high hr]
  refine ⟨fun e rest m hq hm hlow => ?_, fun hnone => ?_⟩
  · rw [grantOffer_of_head hq (lowestFreeMemTag_eq_some.mpr ⟨hm, hlow⟩)]
    rfl
  · rw [grantOffer_of_none (offer_eq_none (hnone.imp_right lowestFreeMemTag_eq_none.mpr))]

/-! ### Memory responses (R160 to R164) -/

section response

variable {s : State} {r : MemResponse} {m : Fin 16} {t : Fin 32} {o : Op} {n : Byte} {a : Addr} {d : List Byte}

/-- A memory response is OK for a request by its status code and its data length (R160, R195). -/
theorem okData_eq (r : MemResponse) (o : Op) (n : Byte) :
    okData r o n = if r.status = 0 ∧ r.data.length = (if o = .read then n.toNat else 0) then some r.data else none := by
  cases o <;> rfl

/-- A returned response frees its two tags and no slot: with no chain to advance, a withheld request stays withheld
(R162). -/
theorem returned_plain {told : State} (hold : told.hold = s.hold) (hm : ∀ e ∈ s.host.tags[t], e.member = false) :
    (((told.freeMemTag m).setTag t none).advance t s.host.tags[t]).reportFreeing s = (told.freeMemTag m).setTag t none := by
  have hcount : ¬ told.hold.heldCount < s.hold.heldCount := by rw [hold]; exact lt_irrefl _
  rw [advance_plain t hm]
  exact reportFreeing_held hcount

/-- The data of an OK response goes on as it came (R161). -/
theorem returnResponse_ok (hm : ∀ e ∈ s.host.tags[t], e.member = false) :
    s.returnResponse m t a (some d) = ((s.respond t .ok d).freeMemTag m).setTag t none :=
  returned_plain rfl hm

/-- The MEMORY_FAULT of a response taken as FAULT (R160, R161). -/
theorem returnResponse_fault (hm : ∀ e ∈ s.host.tags[t], e.member = false) :
    s.returnResponse m t a none =
      (((s.post (.memoryFault m (.hostTag t a))).respond t .fault []).freeMemTag m).setTag t none :=
  returned_plain rfl hm

/-- A response for a FREE memory tag (R164). -/
theorem memoryAnswer_free (h : s.issue.forward[r.tag] = .free) : memoryAnswer r s = s.post (.memoryFault r.tag .unexpected) := by
  simp only [memoryAnswer, h]

/-- A response for a BUSY memory tag is returned to its host tag (R161). -/
theorem memoryAnswer_busy (h : s.issue.forward[r.tag] = .busy t o n a) :
    memoryAnswer r s = s.returnResponse r.tag t a (okData r o n) := by
  simp only [memoryAnswer, h]

/-- An OK response for an ORPHAN memory tag is discarded (R163). -/
theorem memoryAnswer_orphan_ok (h : s.issue.forward[r.tag] = .orphan o n a) (hok : okData r o n = some d) :
    memoryAnswer r s = s.freeMemTag r.tag := by
  simp only [memoryAnswer, h, hok]

/-- A response taken as FAULT for an ORPHAN memory tag is discarded with a MEMORY_FAULT (R163). -/
theorem memoryAnswer_orphan_fault (h : s.issue.forward[r.tag] = .orphan o n a) (hbad : okData r o n = none) :
    memoryAnswer r s = (s.freeMemTag r.tag).post (.memoryFault r.tag (.orphan a)) := by
  simp only [memoryAnswer, h, hbad]

end response

/-- Settles O50: by the state of the response's memory tag, and for BUSY and ORPHAN by whether it is OK for the request. -/
theorem memoryResponsesAreReturnedOrDiscarded : Obligations.MemoryResponsesAreReturnedOrDiscarded := by
  refine ⟨fun r s hr hfree => ?_, fun r s hr => ?_⟩
  · rw [exec_memoryResponse, running_high hr, memoryAnswer_free hfree]
    rfl
  intro free ok
  have data_of_ok : ∀ {o n}, ok o n → okData r o n = some r.data := fun h => (okData_eq r _ _).trans (if_pos h)
  have none_of_not_ok : ∀ {o n}, ¬ ok o n → okData r o n = none := fun h => (okData_eq r _ _).trans (if_neg h)
  rw [exec_memoryResponse, running_high hr]
  refine ⟨fun t o n a hbusy hm => ?_, fun o n a horphan => ?_⟩
  · rw [memoryAnswer_busy hbusy]
    refine ⟨fun hok => ?_, fun hbad => ?_⟩
    · rw [data_of_ok hok, returnResponse_ok hm]
      rfl
    · rw [none_of_not_ok hbad, returnResponse_fault hm]
      rfl
  · refine ⟨fun hok => ?_, fun hbad => ?_⟩
    · rw [memoryAnswer_orphan_ok horphan (data_of_ok hok)]
      rfl
    · rw [memoryAnswer_orphan_fault horphan (none_of_not_ok hbad)]
      rfl

end Sys2Proof.Machine
end

section
/-! Command frames and their bytes: what a command is written as is read back, and every low period of CSn is one command; the
statements about them (R169, R171, R173, R188, R189). -/

namespace Sys2Proof.Machine

/-! ### The checks of a frame (R173, R188) -/

section checks

variable {bytes p : List Byte} {cut : Bool}

@[simp] theorem commandFrame_length (code q : Byte) (p : List Byte) : (commandFrame code q p).length = frameLength p := by
  simp [commandFrame, frameLength]

/-- The frame checks in their order, on a frame that has a length byte (R173). -/
theorem frameFault_eq (h : 3 ≤ bytes.length) :
    frameFault bytes cut =
      if 160 < (bytes.getD 2 0).toNat then some .oversize
      else if cut = true ∨ bytes.length ≠ (bytes.getD 2 0).toNat + 4 then some .length
      else if bytes.getLastD 0 ≠ crc8 bytes.dropLast then some .crc
      else none := by
  match bytes, h with
  | _ :: _ :: _ :: _, _ => rfl

/-- A frame that ends before its length byte fails the length check (R173). -/
theorem frameFault_short (h : bytes.length < 3) : frameFault bytes cut = some .length := by
  match bytes, h with
  | [], _ | [_], _ | [_, _], _ => rfl

/-- What a frame that passes every check has been found to be (R173). -/
theorem frameFault_passes (h : 3 ≤ bytes.length) :
    frameFault bytes cut = none ↔
      (bytes.getD 2 0).toNat ≤ 160 ∧ cut = false ∧ bytes.length = (bytes.getD 2 0).toNat + 4 ∧
        bytes.getLastD 0 = crc8 bytes.dropLast := by
  rw [frameFault_eq h]
  split_ifs with hsize hlength hcrc
  · exact iff_of_false nofun fun ⟨hfits, _⟩ => absurd hsize (Nat.not_lt.mpr hfits)
  · exact iff_of_false nofun fun ⟨_, hwhole, hcount, _⟩ => hlength.elim (by simp [hwhole]) (absurd hcount)
  · exact iff_of_false nofun fun ⟨_, _, _, hsame⟩ => hcrc hsame
  · obtain ⟨hcut, hcount⟩ := not_or.mp hlength
    exact iff_of_true rfl ⟨Nat.not_lt.mp hsize, Bool.eq_false_of_not_eq_true hcut, not_not.mp hcount, not_not.mp hcrc⟩

/-- A command that a frame can carry is written as a frame that passes every check. -/
theorem frameFault_commandFrame (code q : Byte) (hp : p.length ≤ 160) : frameFault (commandFrame code q p) false = none := by
  have hcount : ((commandFrame code q p).getD 2 0).toNat = p.length :=
    (BitVec.toNat_ofNat p.length 8).trans (Nat.mod_eq_of_lt (by omega))
  rw [frameFault_passes (by simp [frameLength]), hcount]
  refine ⟨hp, rfl, commandFrame_length .., ?_⟩
  rw [commandFrame, List.getLastD_concat, List.dropLast_concat]

/-- The frames that pass every check are those that a command is written as, with no byte cut (R173, R188). -/
theorem frameFault_eq_none :
    frameFault bytes cut = none ↔ ∃ code q p, p.length ≤ 160 ∧ bytes = commandFrame code q p ∧ cut = false := by
  constructor
  · intro h
    match bytes with
    | [] | [_] | [_, _] => rw [frameFault_short (by simp)] at h; cases h
    | code :: q :: n :: rest =>
      obtain ⟨hsize, hcut, hcount, hcrc⟩ := (frameFault_passes (by simp)).mp h
      obtain ⟨p, x, rfl⟩ := (List.eq_nil_or_concat' rest).resolve_left (by rintro rfl; simp at hcount)
      have hp : p.length = n.toNat := by simpa using hcount
      have hn : BitVec.ofNat 8 p.length = n := by rw [hp, BitVec.ofNat_toNat, BitVec.setWidth_eq]
      have hx : x = crc8 (code :: q :: n :: p) := by
        rwa [show code :: q :: n :: (p ++ [x]) = (code :: q :: n :: p) ++ [x] from rfl, List.getLastD_concat,
          List.dropLast_concat] at hcrc
      refine ⟨code, q, p, hp.trans_le hsize, ?_, hcut⟩
      rw [commandFrame, hn, ← hx]
      rfl
  · rintro ⟨code, q, p, hp, rfl, rfl⟩
    exact frameFault_commandFrame code q hp

end checks

/-! ### The code of a command (R189) -/

theorem commandOfCode_commandCode (c : Command) : commandOfCode (commandCode c) = some c := by
  cases c <;> rfl

theorem commandOfCode_eq_some {b : Byte} {c : Command} : commandOfCode b = some c ↔ commandCode c = b := by
  constructor
  · intro h
    simpa using List.find?_some h
  · rintro rfl
    exact commandOfCode_commandCode c

theorem commandOfCode_eq_none {b : Byte} : commandOfCode b = none ↔ ∀ c, commandCode c ≠ b := by
  simp only [Option.eq_none_iff_forall_ne_some, ne_eq, commandOfCode_eq_some]

/-! ### Commands and their frames -/

section frames

variable {i : Instr} {bytes p : List Byte} {cut : Bool}

theorem wellFormed_instrOf (c : Command) (q : Byte) (p : List Byte) : (instrOf c q p).wellFormed = true ↔ p.length ≤ 160 := by
  have hfits : (instrOf c q p).wellFormed = payloadFits p := by cases c <;> rfl
  rw [hfits, payloadFits, decide_eq_true_eq]
  rfl

@[simp] theorem encodeFrame_instrOf (c : Command) (q : Byte) (p : List Byte) :
    encodeFrame (instrOf c q p) = some (commandFrame (commandCode c) q p, false) := by
  simp only [encodeFrame, asCommand_instrOf]

/-- What is a frame is a command with a known code, a poll, or a frame that executes nothing (R171, R173, R189). -/
theorem frame_cases (h : encodeFrame i = some (bytes, cut)) :
    (∃ c q p, i = instrOf c q p ∧ bytes = commandFrame (commandCode c) q p ∧ cut = false) ∨
      (∃ rest, i = .poll rest ∧ bytes = 0x7E :: rest ∧ cut = false) ∨ i = .unexecutedFrame bytes cut := by
  cases hc : i.asCommand with
  | some x =>
    obtain rfl := asCommand_eq hc
    rw [encodeFrame_instrOf, Option.some.injEq, Prod.mk.injEq] at h
    exact .inl ⟨_, _, _, rfl, h.1.symm, h.2.symm⟩
  | none =>
    simp only [encodeFrame, hc] at h
    split at h
    · simp only [Option.some.injEq, Prod.mk.injEq] at h
      exact .inr (.inl ⟨_, rfl, h.1.symm, h.2.symm⟩)
    · simp only [Option.some.injEq, Prod.mk.injEq] at h
      rw [h.1, h.2]
      exact .inr (.inr rfl)
    · cases h

/-- A frame executes nothing where it has a byte, is no poll, and fails a check or names no command (R173). -/
theorem executesNothing_iff :
    executesNothing bytes cut = true ↔
      bytes ≠ [] ∧ bytes.getD 0 0 ≠ 0x7E ∧ (frameFault bytes cut ≠ none ∨ commandOfCode (bytes.getD 0 0) = none) := by
  cases bytes with
  | nil => simp [executesNothing]
  | cons code rest =>
    simp only [executesNothing, Bool.and_eq_true, Bool.or_eq_true, decide_eq_true_eq, Option.isSome_iff_ne_none,
      Option.isNone_iff_eq_none, List.getD_cons_zero, List.cons_ne_nil, ne_eq, not_false_eq_true, true_and]
    rfl

/-- A command is read back from its frame. -/
theorem decodeFrame_commandFrame (c : Command) (q : Byte) (hp : p.length ≤ 160) :
    decodeFrame (commandFrame (commandCode c) q p) false = some (instrOf c q p) := by
  have hcheck := frameFault_commandFrame (commandCode c) q hp
  have hpayload : ((commandFrame (commandCode c) q p).drop 3).dropLast = p := List.dropLast_concat
  rw [commandFrame, List.cons_append] at hcheck hpayload ⊢
  simp only [decodeFrame, if_neg (Laws.FrameCode.commandCode_ne_poll c), hcheck, commandOfCode_commandCode, hpayload]
  rfl

/-- A frame that executes nothing is read as its bytes. -/
theorem decodeFrame_executesNothing (h : executesNothing bytes cut = true) :
    decodeFrame bytes cut = some (.unexecutedFrame bytes cut) := by
  obtain ⟨hne, hpoll, hnothing⟩ := executesNothing_iff.mp h
  cases bytes with
  | nil => exact absurd rfl hne
  | cons code rest =>
    simp only [decodeFrame, if_neg (show code ≠ Config.pollCode from hpoll)]
    split
    · rename_i hcheck hcode
      exact absurd hnothing (by simp [hcheck, hcode])
    · rfl

end frames

/-- Settles O7: a command by its frame's checks and code, a poll by its first byte, and any other frame by what it fails. -/
theorem encodedFramesDecode : Obligations.EncodedFramesDecode := by
  intro i bytes cut hw he
  obtain ⟨c, q, p, rfl, rfl, rfl⟩ | ⟨rest, rfl, rfl, rfl⟩ | rfl := frame_cases he
  · exact decodeFrame_commandFrame c q ((wellFormed_instrOf c q p).mp hw)
  · rfl
  · exact decodeFrame_executesNothing hw

/-- Settles O8: bytes that pass the checks and name a command are its frame, other bytes stand for themselves, and a frame is read back
as one command only. -/
theorem decodedFramesEncode : Obligations.DecodedFramesEncode := by
  refine ⟨fun cut => rfl, fun rest cut => rfl, fun bytes cut hne hpoll => ?_, fun i j bytes cut hi hj hei hej => ?_⟩
  · by_cases hnothing : executesNothing bytes cut = true
    · exact ⟨_, decodeFrame_executesNothing hnothing, hnothing, rfl⟩
    · obtain ⟨hcheck, hcode⟩ := not_or.mp fun h => hnothing (executesNothing_iff.mpr ⟨hne, hpoll, h⟩)
      obtain ⟨code, q, p, hp, rfl, rfl⟩ := frameFault_eq_none.mp (not_not.mp hcheck)
      obtain ⟨c, hc⟩ := Option.ne_none_iff_exists'.mp hcode
      obtain rfl : commandCode c = code := commandOfCode_eq_some.mp hc
      exact ⟨_, decodeFrame_commandFrame c q hp, (wellFormed_instrOf c q p).mpr hp, encodeFrame_instrOf c q p⟩
  · exact Option.some.inj ((encodedFramesDecode i bytes cut hi hei).symm.trans (encodedFramesDecode j bytes cut hj hej))

end Sys2Proof.Machine
end

section
/-! What the service port does with a frame in each of its states, and the statements about it (R169, R173 to R179, R186). -/

namespace Sys2Proof.Machine

open Claims

/-! ### Command frames (R173 to R175) -/

section frames

variable {i : Instr} {bytes : List Byte} {cut : Bool} {s : State}

/-- Raw bytes that are no poll are taken as a command frame (R171, R173). -/
theorem takeRaw_frame (hne : bytes ≠ []) (hpoll : bytes.getD 0 0 ≠ 0x7E) :
    takeRaw bytes cut s = s.takeFrame bytes.length (handleRaw bytes cut) := by
  cases bytes with
  | nil => exact absurd rfl hne
  | cons code rest => exact if_neg hpoll

/-- A command frame is handled as its command, or as bytes that execute nothing (R173, R176). -/
def Handles (i : Instr) (f : State → State) : Prop :=
  (∃ c q p, i = instrOf c q p ∧ f = takeCommand c q p) ∨
    ∃ bytes cut, executesNothing bytes cut = true ∧ i = .unexecutedFrame bytes cut ∧ f = handleRaw bytes cut

/-- Every command frame, executable or not, is taken whole by the port and then handled (R169, R173). -/
theorem exec_frame (hw : i.wellFormed = true) (he : encodeFrame i = some (bytes, cut)) (hp : ∀ rest, i ≠ .poll rest) :
    ∃ f, Handles i f ∧ ∀ s : State, s.resetn = .high → exec i s = .next (s.takeFrame bytes.length f) := by
  obtain ⟨c, q, p, rfl, rfl, rfl⟩ | ⟨rest, rfl, _, _⟩ | rfl := frame_cases he
  · refine ⟨takeCommand c q p, .inl ⟨c, q, p, rfl, rfl⟩, fun s hr => ?_⟩
    rw [exec_instrOf, running_high hr, commandFrame_length]
  · exact absurd rfl (hp rest)
  · obtain ⟨hne, hpoll, _⟩ := executesNothing_iff.mp hw
    refine ⟨handleRaw bytes cut, .inr ⟨bytes, cut, hw, rfl, rfl⟩, fun s hr => ?_⟩
    rw [exec_unexecutedFrame, running_high hr, takeRaw_frame hne hpoll]

end frames

/-- Settles O9: a frame taken by a BUSY port is dropped, whatever it is. -/
theorem busyPortDropsCommandFrames : Obligations.BusyPortDropsCommandFrames := by
  intro i bytes cut c s hw he hp hr hbusy
  obtain ⟨f, -, hexec⟩ := exec_frame hw he hp
  rw [hexec s hr, takeFrame_busy hbusy]
  rfl

/-- Settles O10: a READY port takes a frame as an IDLE one does that has OVERWRITTEN set, whatever the frame is. -/
theorem readyPortIsOverwritten : Obligations.ReadyPortIsOverwritten := by
  intro i bytes cut r s hw he hp hr hready
  obtain ⟨f, -, hexec⟩ := exec_frame hw he hp
  rw [hexec s hr, takeFrame_ready hready]
  exact (hexec (s.setPort { s.port with phase := .idle, overwritten := true }) hr).symm

/-! ### Frames that execute nothing (R173) -/

section unexecuted

variable {bytes : List Byte} {cut : Bool} {s : State}

/-- A frame that fails a check is answered with the first check it fails and its length, of which 16 bits are shown. -/
theorem handleRaw_fault {c : FrameCause} (hf : frameFault bytes cut = some c) (hl : bytes.length ≤ 65535) :
    handleRaw bytes cut s =
      s.makeReady (bytes.getD 0 0) (bytes.getD 1 0) .frameError (c.code :: le 2 bytes.length) := by
  simp only [handleRaw, hf, frameErrorShown, Nat.min_eq_left hl]

/-- A frame whose code names no command is answered UNKNOWN. -/
theorem handleRaw_unknown (hf : frameFault bytes cut = none) (hc : commandOfCode (bytes.getD 0 0) = none) :
    handleRaw bytes cut s = s.makeReady (bytes.getD 0 0) (bytes.getD 1 0) .unknown [] := by
  simp only [handleRaw, hf, hc]

end unexecuted

/-- Settles O13: the port takes the frame, and the first check that fails decides the answer. -/
theorem unexecutedFramesAreAnswered : Obligations.UnexecutedFramesAreAnswered := by
  intro bytes cut s ha hne hpoll hl answer error
  have hexec : exec (.unexecutedFrame bytes cut) s =
      .next (handleRaw bytes cut (s.setPort (handling s.port bytes.length))) := by
    rw [exec_unexecutedFrame, running_high ha.1, takeRaw_frame hne hpoll, takeFrame_accepts ha]
  have herror : ∀ c : FrameCause, frameFault bytes cut = some c → exec (.unexecutedFrame bytes cut) s = error c.code :=
    fun _ hf => hexec.trans (congrArg _ (handleRaw_fault hf hl))
  refine ⟨fun h3 hsize => herror .oversize ?_, fun h3 => herror .length (frameFault_short h3),
    fun h3 hsize hlength => herror .length ?_, fun h3 hsize hcut hcount => ⟨fun hcrc => herror .crc ?_, fun hcrc hcode => ?_⟩⟩
  · rw [frameFault_eq h3, if_pos hsize]
  · rw [frameFault_eq h3, if_neg (Nat.not_lt.mpr hsize), if_pos hlength]
  · rw [frameFault_eq h3, if_neg (Nat.not_lt.mpr hsize), if_neg (by simp [hcut, hcount]), if_pos hcrc]
  · have hf : frameFault bytes cut = none := (frameFault_passes h3).mpr ⟨hsize, hcut, hcount, hcrc⟩
    exact hexec.trans (congrArg _ (handleRaw_unknown hf (commandOfCode_eq_none.mpr hcode)))

/-! ### Polls and short frames (R169, R178, R179, R188) -/

section polls

variable {s : State} (rest : List Byte)

theorem takePoll_idle (h : s.port.phase = .idle) :
    takePoll rest s = s.shiftOut (misoBytes (rest.length + 1) [0x00, 0x01]) := by
  simp only [takePoll, h]
  rfl

theorem takePoll_busy {c : Executing} (h : s.port.phase = .busy c) :
    takePoll rest s = s.shiftOut (misoBytes (rest.length + 1) [0x00, 0x02]) := by
  simp only [takePoll, h]
  rfl

/-- A held response leaves after the status byte, and is released. -/
theorem takePoll_ready {r : Response} (h : s.port.phase = .ready r) :
    takePoll rest s =
      s.setPort
        { s.port with
          phase := .idle
          miso := s.port.miso ++ [misoBytes (rest.length + 1) (0x00 :: 0x03 :: (r.body ++ [crc8 r.body]))] } := by
  simp only [takePoll, h]
  rfl

/-- The flags byte of a response: bit 0 DROPPED, bit 1 OVERWRITTEN (R188). -/
theorem packByte_pair (a b : Bool) : packByte [a, b] = (if a then 1 else 0) + (if b then 2 else 0) := by
  revert a b
  decide

end polls

/-- Settles O12: a poll by the port's state, a short frame in every state. -/
theorem pollsReturnAndShortFramesAreIgnored : Obligations.PollsReturnAndShortFramesAreIgnored := by
  refine ⟨fun rest s hr => ?_, fun why s => rfl⟩
  rw [exec_poll, running_high hr]
  refine ⟨fun h => ?_, fun c h => ?_, fun r h => ?_⟩
  · rw [takePoll_idle rest h]
    rfl
  · rw [takePoll_busy rest h]
    rfl
  · rw [takePoll_ready rest h, Response.body, packByte_pair]
    rfl

end Sys2Proof.Machine
end

section
/-! What a command leaves that is not DONE: every block outside the port as it was, command by command, and the statement about it
(R181). -/

namespace Sys2Proof.Machine

open Claims

/-! ### Answers other than DONE -/

/-- An answer other than DONE leaves the state s (R181). -/
def Answer.Leaves (a : Answer) (s : State) : Prop := a.result ≠ .done → a.after = s

theorem leaves_answers {s : State} {r : Result} {d : List Byte} : (s.answers r d).Leaves s := fun _ => rfl

theorem leaves_done {s t : State} {d : List Byte} : Answer.Leaves ⟨.done, d, t⟩ s := fun h => absurd rfl h

theorem leaves_of_after {s : State} {a : Answer} (h : a.after = s) : a.Leaves s := fun _ => h

theorem leaves_ite {s : State} {c : Prop} [Decidable c] {a b : Answer} (ha : a.Leaves s) (hb : b.Leaves s) :
    (if c then a else b).Leaves s := by
  split
  · exact ha
  · exact hb

section bodies

variable (p : List Byte) (s : State)

/-! ### Window and timeout commands -/

theorem wsetBody_leaves : (wsetBody p s).Leaves s := by
  unfold wsetBody
  split
  · exact leaves_answers
  · split
    · exact leaves_ite leaves_answers leaves_done
    · exact leaves_answers

theorem wclearBody_leaves : (wclearBody p s).Leaves s := by
  unfold wclearBody
  split
  · split
    · exact leaves_done
    · exact leaves_answers
  · exact leaves_answers

theorem wdefaultBody_leaves : (wdefaultBody p s).Leaves s := by
  unfold wdefaultBody
  split
  · split
    · exact leaves_done
    · exact leaves_answers
  · exact leaves_answers

theorem wzeroBody_leaves : (wzeroBody p s).Leaves s := by
  unfold wzeroBody
  split
  · refine leaves_ite leaves_done ?_
    split
    · exact leaves_done
    · exact leaves_answers
  · exact leaves_answers

theorem tsetBody_leaves : (tsetBody p s).Leaves s := by
  unfold tsetBody
  split
  · split
    · exact leaves_ite leaves_answers leaves_done
    · exact leaves_answers
  · exact leaves_answers

/-! ### Decisions -/

/-- A decision answers what its own checks answer for the slot's current hold, or is refused by the slot, use and reason checks. -/
theorem withDefer_leaves (slot use : Byte) {f : Fin 16 → Hold → Answer} (hf : ∀ k h, (f k h).Leaves s) :
    (s.withDefer slot use f).Leaves s := by
  unfold State.withDefer State.withCurrent
  split
  · exact leaves_answers
  · dsimp only
    split
    · exact leaves_ite (leaves_ite (hf _ _) leaves_answers) leaves_answers
    · exact leaves_answers

theorem hdataBody_leaves : (hdataBody p s).Leaves s := by
  unfold hdataBody
  split
  · exact leaves_ite leaves_answers (withDefer_leaves s _ _ fun k h =>
      leaves_ite leaves_answers (leaves_ite leaves_answers leaves_done))
  · exact leaves_answers

theorem hdoneBody_leaves : (hdoneBody p s).Leaves s := by
  unfold hdoneBody
  split
  · exact leaves_ite leaves_answers (withDefer_leaves s _ _ fun k h =>
      leaves_ite leaves_answers (leaves_ite leaves_answers leaves_done))
  · exact leaves_answers

theorem hfwdBody_leaves : (hfwdBody p s).Leaves s := by
  unfold hfwdBody
  split
  · split
    · exact leaves_answers
    · exact withDefer_leaves s _ _ fun k h =>
        leaves_ite leaves_answers (leaves_ite leaves_answers (leaves_ite leaves_answers leaves_done))
  · exact leaves_answers

theorem hrefuseBody_leaves : (hrefuseBody p s).Leaves s := by
  unfold hrefuseBody
  split
  · exact withDefer_leaves s _ _ fun k h => leaves_ite leaves_done (leaves_ite leaves_done leaves_answers)
  · exact leaves_answers

theorem hrenewBody_leaves : (hrenewBody p s).Leaves s := by
  unfold hrenewBody
  split
  · exact withDefer_leaves s _ _ fun k h => leaves_ite leaves_answers leaves_done
  · exact leaves_answers

/-! ### Notices -/

theorem nfetchBody_leaves : (nfetchBody p s).Leaves s := by
  unfold nfetchBody
  refine leaves_ite leaves_answers ?_
  split
  · exact leaves_answers
  · exact leaves_ite leaves_answers leaves_done

theorem nackBody_leaves : (nackBody p s).Leaves s := by
  unfold nackBody
  split
  · split
    · exact leaves_ite leaves_done leaves_answers
    · exact leaves_answers
  · exact leaves_answers

/-! ### Segments -/

theorem sloadBody_leaves : (sloadBody p s).Leaves s := by
  unfold sloadBody
  split
  · split
    · exact leaves_answers
    · refine leaves_ite leaves_answers ?_
      split
      · exact leaves_ite leaves_answers (leaves_ite leaves_done leaves_answers)
      · split
        · exact leaves_answers
        · exact leaves_done
  · exact leaves_answers

theorem sdataBody_leaves : (sdataBody p s).Leaves s := by
  unfold sdataBody
  split
  · refine leaves_ite leaves_answers ?_
    split
    · exact leaves_answers
    · refine leaves_ite leaves_answers ?_
      split
      · exact leaves_answers
      · exact leaves_ite leaves_answers (leaves_ite leaves_answers (leaves_ite leaves_answers leaves_done))
  · exact leaves_answers

theorem sabortBody_leaves : (sabortBody p s).Leaves s := by
  unfold sabortBody
  split
  · split
    · exact leaves_answers
    · split
      · exact leaves_answers
      · exact leaves_ite leaves_answers leaves_done
  · exact leaves_answers

theorem sfreeBody_leaves : (sfreeBody p s).Leaves s := by
  unfold sfreeBody
  split
  · split
    · exact leaves_answers
    · split
      · exact leaves_answers
      · split
        · exact leaves_answers
        · exact leaves_done
  · exact leaves_answers

end bodies

/-! ### Command frames -/

/-- The state t, where it holds a response other than DONE, is s outside the port (R181). -/
def Refuses (s t : State) : Prop := ∀ r, t.port.phase = .ready r → r.result ≠ .done → t = { s with port := t.port }

/-- What writes the port only refuses, whatever the response. -/
theorem refuses_setPort {s : State} {x : ServicePort} : Refuses s (s.setPort x) := fun _ _ _ => rfl

theorem refuses_makeReady {s : State} {code q : Byte} {r : Result} {d : List Byte} : Refuses s (s.makeReady code q r d) :=
  refuses_setPort

/-- An immediate command refuses where its body leaves the state. -/
theorem refuses_immediately {s : State} {body : State → Answer} (c : Command) (q : Byte) (hb : (body s).Leaves s) :
    Refuses s (s.immediately c q body) := by
  intro r hr hne
  have hresult : (body s).result = r.result := congrArg Response.result (PortPhase.ready.inj hr)
  have hafter : (body s).after = s := hb (hresult ▸ hne)
  simp only [State.immediately, hafter]
  rfl

theorem takeScheck_refuses (s : State) (q : Byte) (p : List Byte) : Refuses s (takeScheck q p s) := by
  unfold takeScheck
  split
  · split
    · exact refuses_makeReady
    · split
      · exact refuses_makeReady
      · dsimp only
        split_ifs
        · exact refuses_makeReady
        · exact refuses_makeReady
        · exact refuses_setPort
  · exact refuses_makeReady

theorem takeCommand_refuses (c : Command) (q : Byte) (p : List Byte) (s : State) : Refuses s (takeCommand c q p s) := by
  cases c with
  | wset => exact refuses_immediately _ q (wsetBody_leaves p s)
  | wclear => exact refuses_immediately _ q (wclearBody_leaves p s)
  | wdefault => exact refuses_immediately _ q (wdefaultBody_leaves p s)
  | wread => exact refuses_immediately _ q (leaves_of_after (wreadBody_after p s))
  | wstats => exact refuses_immediately _ q (leaves_of_after (wstatsBody_after p s))
  | wzero => exact refuses_immediately _ q (wzeroBody_leaves p s)
  | tset => exact refuses_immediately _ q (tsetBody_leaves p s)
  | hread => exact refuses_immediately _ q (leaves_of_after (hreadBody_after p s))
  | hdata => exact refuses_immediately _ q (hdataBody_leaves p s)
  | hdone => exact refuses_immediately _ q (hdoneBody_leaves p s)
  | hfwd => exact refuses_immediately _ q (hfwdBody_leaves p s)
  | hrefuse => exact refuses_immediately _ q (hrefuseBody_leaves p s)
  | hrenew => exact refuses_immediately _ q (hrenewBody_leaves p s)
  | nfetch => exact refuses_immediately _ q (nfetchBody_leaves p s)
  | nack => exact refuses_immediately _ q (nackBody_leaves p s)
  | sload => exact refuses_immediately _ q (sloadBody_leaves p s)
  | sdata => exact refuses_immediately _ q (sdataBody_leaves p s)
  | sabort => exact refuses_immediately _ q (sabortBody_leaves p s)
  | sfree => exact refuses_immediately _ q (sfreeBody_leaves p s)
  | sread => exact refuses_immediately _ q (leaves_of_after (sreadBody_after p s))
  | sinfo => exact refuses_immediately _ q (leaves_of_after (sinfoBody_after p s))
  | status => exact refuses_immediately _ q (leaves_of_after (statusBody_after p s))
  | scheck => exact takeScheck_refuses s q p
  | commit =>
    simp only [takeCommand, takeCommit]
    split
    · exact refuses_setPort
    · exact refuses_makeReady
  | clearall =>
    simp only [takeCommand, takeClearall]
    split
    · exact refuses_setPort
    · exact refuses_makeReady

/-- A frame that executes nothing is answered by the port alone (R173). -/
theorem handleRaw_refuses {bytes : List Byte} {cut : Bool} (h : executesNothing bytes cut = true) (s : State) :
    Refuses s (handleRaw bytes cut s) := by
  obtain ⟨-, -, hnothing⟩ := executesNothing_iff.mp h
  unfold handleRaw
  dsimp only
  split
  · exact refuses_makeReady
  · rename_i hcheck
    rw [hnothing.resolve_left (not_not.mpr hcheck)]
    exact refuses_makeReady

/-- A command frame that is handled refuses, or its command is DONE or in execution. -/
theorem Handles.refuses {i : Instr} {f : State → State} (h : Handles i f) (s : State) : Refuses s (f s) := by
  obtain ⟨c, q, p, -, rfl⟩ | ⟨bytes, cut, hnothing, -, rfl⟩ := h
  · exact takeCommand_refuses c q p s
  · exact handleRaw_refuses hnothing s

/-- Settles O11: the frame is handled, and what handles it writes the port alone unless it is DONE. -/
theorem refusedCommandsChangeNoBlock : Obligations.RefusedCommandsChangeNoBlock := by
  intro i bytes cut s t r hw he hp ha hexec hr hne
  obtain ⟨f, hf, hframe⟩ := exec_frame hw he hp
  rw [hframe s ha.1, takeFrame_accepts ha, Host.Outcome.next.injEq] at hexec
  subst hexec
  exact hf.refuses (s.setPort (handling s.port bytes.length)) r hr hne

end Sys2Proof.Machine
end

section
/-! Payloads that fail the layout check of their command, command by command, and the parts of an hfwd read from its bytes; the statement
about them (R176, R187, R189, R192). -/

namespace Sys2Proof.Machine

open Claims

/-! ### Payload lengths (R189) -/

section lengths

variable {p : List Byte} {s : State}

theorem WindowRecord.encode_length (r : WindowRecord) : r.encode.length = 26 := by
  simp [WindowRecord.encode]

theorem wsetBody_length (h : p.length ≠ 27) : wsetBody p s = s.answers .invalid [] := by
  refine wsetBody_invalid s ?_
  rintro ⟨w, r, rfl, -⟩
  exact h (congrArg (· + 1) r.encode_length)

theorem wclearBody_length (h : p.length ≠ 1) : wclearBody p s = s.answers .invalid [] :=
  wclearBody_invalid s fun _ => by rintro rfl; exact h rfl

theorem wdefaultBody_length (h : p.length ≠ 2) : wdefaultBody p s = s.answers .invalid [] :=
  wdefaultBody_invalid s fun _ _ _ => by rintro rfl; exact h rfl

theorem wreadBody_length (h : p.length ≠ 2) : wreadBody p s = s.answers .invalid [] := by
  unfold wreadBody
  split
  · exact absurd rfl h
  · rfl

theorem wstatsBody_length (h : p.length ≠ 2) : wstatsBody p s = s.answers .invalid [] :=
  wstatsBody_invalid s fun _ => by rintro rfl; exact h rfl

theorem wzeroBody_length (h : p.length ≠ 1) : wzeroBody p s = s.answers .invalid [] :=
  wzeroBody_invalid s (fun _ => by rintro rfl; exact h rfl) (by rintro rfl; exact h rfl)

theorem tsetBody_length (h : p.length ≠ 3) : tsetBody p s = s.answers .invalid [] :=
  tsetBody_invalid s fun _ _ _ _ => by rintro rfl; exact h rfl

theorem hreadBody_length (h : p.length ≠ 3) : hreadBody p s = s.answers .invalid [] := by
  unfold hreadBody
  split
  · exact absurd rfl h
  · rfl

theorem hdataBody_length (h : p.length < 2 ∨ 160 < p.length) : hdataBody p s = s.answers .invalid [] := by
  unfold hdataBody
  split
  · simp only [List.length_cons] at h
    exact if_pos (show 158 < _ by omega)
  · rfl

theorem hdoneBody_length (h : p.length < 2 ∨ 160 < p.length) : hdoneBody p s = s.answers .invalid [] := by
  unfold hdoneBody
  split
  · simp only [List.length_cons] at h
    exact if_pos (show 158 < _ by omega)
  · rfl

/-- An hfwd that selects no parts is INVALID, and so is one longer than a frame can carry. -/
theorem hfwdBody_noParts {slot u sel : Byte} {b : List Byte}
    (h : 160 < (slot :: u :: sel :: b).length ∨ fwdParts sel b = none) :
    hfwdBody (slot :: u :: sel :: b) s = s.answers .invalid [] := by
  have hnone : (if Config.maxPayload < (slot :: u :: sel :: b).length then none else fwdParts sel b) = none :=
    ite_eq_left_iff.mpr fun hfits => h.resolve_left hfits
  simp only [hfwdBody, hnone]

theorem hfwdBody_length (h : p.length < 3 ∨ 160 < p.length) : hfwdBody p s = s.answers .invalid [] := by
  match p with
  | [] | [_] | [_, _] => rfl
  | slot :: u :: sel :: b => exact hfwdBody_noParts (.inl (h.resolve_left (by simp)))

theorem hrefuseBody_length (h : p.length ≠ 3) : hrefuseBody p s = s.answers .invalid [] := by
  unfold hrefuseBody
  split
  · exact absurd rfl h
  · rfl

theorem hrenewBody_length (h : p.length ≠ 2) : hrenewBody p s = s.answers .invalid [] := by
  unfold hrenewBody
  split
  · exact absurd rfl h
  · rfl

theorem sloadBody_length (h : p.length ≠ 5) : sloadBody p s = s.answers .invalid [] := by
  unfold sloadBody
  split
  · exact absurd rfl h
  · rfl

theorem sdataBody_length (h : p.length < 4 ∨ 131 < p.length) : sdataBody p s = s.answers .invalid [] := by
  unfold sdataBody
  split
  · rename_i data
    simp only [List.length_cons] at h
    refine if_pos ?_
    rw [← List.length_eq_zero_iff]
    omega
  · rfl

theorem takeScheck_length (q : Byte) (h : p.length ≠ 5) : takeScheck q p s = s.makeReady (commandCode .scheck) q .invalid [] := by
  unfold takeScheck
  split
  · exact absurd rfl h
  · rfl

theorem sabortBody_length (h : p.length ≠ 1) : sabortBody p s = s.answers .invalid [] := by
  unfold sabortBody
  split
  · exact absurd rfl h
  · rfl

theorem sfreeBody_length (h : p.length ≠ 1) : sfreeBody p s = s.answers .invalid [] := by
  unfold sfreeBody
  split
  · exact absurd rfl h
  · rfl

theorem sreadBody_length (h : p.length ≠ 4) : sreadBody p s = s.answers .invalid [] := by
  unfold sreadBody
  split
  · exact absurd rfl h
  · rfl

theorem sinfoBody_length (h : p.length ≠ 1) : sinfoBody p s = s.answers .invalid [] := by
  unfold sinfoBody
  split
  · exact absurd rfl h
  · rfl

end lengths

/-! ### Commands that are INVALID -/

theorem immediately_invalid {s : State} {body : State → Answer} (c : Command) (q : Byte) (h : body s = s.answers .invalid []) :
    s.immediately c q body = s.makeReady (commandCode c) q .invalid [] := by
  simp only [State.immediately, h]
  rfl

/-- A payload whose length the table of R189 does not give its command is INVALID. -/
theorem takeCommand_length {c : Command} {p : List Byte} (q : Byte) (h : p.length < (layoutBytes c).1 ∨ (layoutBytes c).2 < p.length)
    (s : State) : takeCommand c q p s = s.makeReady (commandCode c) q .invalid [] := by
  cases c with
  | wset => exact immediately_invalid _ q (wsetBody_length (ne_iff_lt_or_gt.mpr h))
  | wclear => exact immediately_invalid _ q (wclearBody_length (ne_iff_lt_or_gt.mpr h))
  | wdefault => exact immediately_invalid _ q (wdefaultBody_length (ne_iff_lt_or_gt.mpr h))
  | wread => exact immediately_invalid _ q (wreadBody_length (ne_iff_lt_or_gt.mpr h))
  | commit => exact if_neg (List.ne_nil_of_length_pos (h.resolve_left (Nat.not_lt_zero _)))
  | wstats => exact immediately_invalid _ q (wstatsBody_length (ne_iff_lt_or_gt.mpr h))
  | wzero => exact immediately_invalid _ q (wzeroBody_length (ne_iff_lt_or_gt.mpr h))
  | tset => exact immediately_invalid _ q (tsetBody_length (ne_iff_lt_or_gt.mpr h))
  | hread => exact immediately_invalid _ q (hreadBody_length (ne_iff_lt_or_gt.mpr h))
  | hdata => exact immediately_invalid _ q (hdataBody_length h)
  | hdone => exact immediately_invalid _ q (hdoneBody_length h)
  | hfwd => exact immediately_invalid _ q (hfwdBody_length h)
  | hrefuse => exact immediately_invalid _ q (hrefuseBody_length (ne_iff_lt_or_gt.mpr h))
  | hrenew => exact immediately_invalid _ q (hrenewBody_length (ne_iff_lt_or_gt.mpr h))
  | nfetch => exact immediately_invalid _ q (nfetchBody_invalid (List.ne_nil_of_length_pos (h.resolve_left (Nat.not_lt_zero _))))
  | nack => exact immediately_invalid _ q (nackBody_invalid (ne_iff_lt_or_gt.mpr h))
  | sload => exact immediately_invalid _ q (sloadBody_length (ne_iff_lt_or_gt.mpr h))
  | sdata => exact immediately_invalid _ q (sdataBody_length h)
  | scheck => exact takeScheck_length q (ne_iff_lt_or_gt.mpr h)
  | sabort => exact immediately_invalid _ q (sabortBody_length (ne_iff_lt_or_gt.mpr h))
  | sfree => exact immediately_invalid _ q (sfreeBody_length (ne_iff_lt_or_gt.mpr h))
  | sread => exact immediately_invalid _ q (sreadBody_length (ne_iff_lt_or_gt.mpr h))
  | sinfo => exact immediately_invalid _ q (sinfoBody_length (ne_iff_lt_or_gt.mpr h))
  | status => exact immediately_invalid _ q (if_neg (List.ne_nil_of_length_pos (h.resolve_left (Nat.not_lt_zero _))))
  | clearall => exact if_neg (List.ne_nil_of_length_pos (h.resolve_left (Nat.not_lt_zero _)))

/-! ### The parts of an hfwd from its bytes (R192) -/

/-- The payload of an hfwd after its slot and use: the selector, the address, the mask with its count, and the data. -/
theorem fwdPayload_eq (a : Option Addr) (m : Option (List Bool)) (d : Option (List Byte)) :
    fwdPayload a m d = packByte [a.isSome, m.isSome, d.isSome] ::
      (a.elim [] (fun x => le 5 x.toNat) ++ m.elim [] (fun x => BitVec.ofNat 8 x.length :: packFlags x) ++ d.getD []) := by
  cases a <;> cases m <;> rfl

/-- A selector is the byte of its three lowest bits. -/
theorem selector_eq {sel : Byte} (h : sel.toNat < 8) : sel = packByte [sel.getLsbD 0, sel.getLsbD 1, sel.getLsbD 2] := by
  have hall : ∀ k : Fin 8, BitVec.ofNat 8 k.val =
      packByte [(BitVec.ofNat 8 k.val).getLsbD 0, (BitVec.ofNat 8 k.val).getLsbD 1, (BitVec.ofNat 8 k.val).getLsbD 2] := by decide
  simpa using hall ⟨sel.toNat, h⟩

/-- Where an address is selected, the first five bytes are one. -/
theorem addrPart_of_bytes {c : Bool} {b : List Byte} (h : ¬ (c = true ∧ b.length < 5)) :
    ∃ a : Option Addr, a.isSome = c ∧ b = a.elim [] (fun x => le 5 x.toNat) ++ if c then b.drop 5 else b := by
  cases c with
  | false => exact ⟨none, rfl, rfl⟩
  | true =>
    have hlen : (b.take 5).length = 5 := by simp only [true_and, Nat.not_lt] at h; simpa using h
    have hlt : fromLE (b.take 5) < 2 ^ 40 := by have := fromLE_lt (b.take 5); rw [hlen] at this; omega
    refine ⟨some (BitVec.ofNat 40 (fromLE (b.take 5))), rfl, ?_⟩
    have hback : le 5 (fromLE (b.take 5)) = b.take 5 := by simpa only [hlen] using le_fromLE (b.take 5)
    simp only [Option.elim_some, BitVec.toNat_ofNat, Nat.mod_eq_of_lt hlt, hback, if_true, List.take_append_drop]

/-- The flags that a mask part spells are at most 255, and they are what its bytes are written from. -/
theorem fwdMask_eq_some {b rest : List Byte} {m : List Bool} (h : fwdMask b = some (m, rest)) :
    m.length ≤ 255 ∧ b = BitVec.ofNat 8 m.length :: (packFlags m ++ rest) := by
  cases b with
  | nil => cases h
  | cons n b =>
    simp only [fwdMask, Option.ite_none_right_eq_some, Option.some.injEq, Prod.mk.injEq] at h
    obtain ⟨⟨-, hpacked⟩, rfl, rfl⟩ := h
    have hcount : (unpackFlags n.toNat (b.take (flagBytes n.toNat))).length = n.toNat := by simp [unpackFlags]
    refine ⟨by rw [hcount]; omega, ?_⟩
    rw [hpacked, hcount, List.take_append_drop, BitVec.ofNat_toNat, BitVec.setWidth_eq]

/-- Where a mask is selected, the bytes begin with one. -/
theorem maskPart_of_bytes {c : Bool} {b rest : List Byte} {m : Option (List Bool)}
    (h : (if c then (fwdMask b).map fun x => (some x.1, x.2) else some (none, b)) = some (m, rest)) :
    m.isSome = c ∧ (∀ x ∈ m, x.length ≤ 255) ∧ b = m.elim [] (fun x => BitVec.ofNat 8 x.length :: packFlags x) ++ rest := by
  cases c with
  | false =>
    cases h
    exact ⟨rfl, nofun, rfl⟩
  | true =>
    rw [if_pos rfl, Option.map_eq_some_iff] at h
    obtain ⟨⟨flags, after⟩, hflags, heq⟩ := h
    cases heq
    obtain ⟨hlen, hb⟩ := fwdMask_eq_some hflags
    exact ⟨rfl, fun x hx => by cases hx; exact hlen, hb⟩

/-- The bytes that pass the layout check of an hfwd are the payload of some parts (R192). -/
theorem fwdPayload_of_fwdParts {sel : Byte} {b : List Byte} {x : FwdParts} (h : fwdParts sel b = some x) :
    ∃ a m d, (∀ y ∈ m, y.length ≤ 255) ∧ sel :: b = fwdPayload a m d := by
  unfold fwdParts at h
  rw [Option.ite_none_left_eq_some, Option.ite_none_left_eq_some] at h
  obtain ⟨hsel, haddr, h⟩ := h
  dsimp only at h
  obtain ⟨a, ha, hb⟩ := addrPart_of_bytes haddr
  split at h
  · cases h
  rename_i m rest hmask
  obtain ⟨hm, hflags, hrest⟩ := maskPart_of_bytes hmask
  have hdata : ∃ d : Option (List Byte), d.isSome = sel.getLsbD 2 ∧ rest = d.getD [] := by
    split at h
    · rename_i hbit
      exact ⟨some rest, hbit.symm, rfl⟩
    · rename_i hbit
      rw [Option.ite_none_right_eq_some] at h
      exact ⟨none, (Bool.eq_false_of_not_eq_true hbit).symm, h.1⟩
  obtain ⟨d, hd, hlast⟩ := hdata
  refine ⟨a, m, d, hflags, ?_⟩
  rw [fwdPayload_eq, ha, hm, hd, ← selector_eq (Nat.not_le.mp hsel), List.append_assoc, ← hlast, ← hrest, ← hb]

/-- Settles O14: a length out of the table by the commands, an hfwd by the parts that its bytes would be. -/
theorem payloadsOfNoLayoutAreInvalid : Obligations.PayloadsOfNoLayoutAreInvalid := by
  intro q p s ha invalid
  have invalid_of : ∀ c, (∀ z, takeCommand c q p z = z.makeReady (commandCode c) q .invalid []) → invalid c := by
    intro c hc
    change exec (instrOf c q p) s = _
    rw [exec_instrOf, running_high ha.1, takeFrame_accepts ha, hc]
    rfl
  refine ⟨fun c h => invalid_of c (takeCommand_length q h), fun h => invalid_of .hfwd fun z => immediately_invalid _ q ?_⟩
  match p, h with
  | [], _ | [_], _ | [_, _], _ => rfl
  | slot :: u :: sel :: b, h =>
    refine hfwdBody_noParts (.inr (Option.eq_none_iff_forall_ne_some.mpr fun x hx => ?_))
    obtain ⟨a, m, d, hm, hb⟩ := fwdPayload_of_fwdParts hx
    exact h slot u a m d hm (by rw [hb])

end Sys2Proof.Machine
end

section
/-! RESETn: what it leaves, and what it lets no other event do, and the statements about it (R185, R186). -/

namespace Sys2Proof.Machine

/-- Settles O4: the power-on state field by field; rising from it changes the pin, and a pin that is high already nothing. -/
theorem resetnGivesPowerOnState : Obligations.ResetnGivesPowerOnState := by
  refine ⟨fun s => ⟨s.powerOn .low, rfl, rfl, rfl, rfl, rfl, rfl, rfl, rfl, rfl, rfl, rfl⟩, fun s hlow hpin => ?_, fun s hhigh => ?_⟩
  · have hrise : movePin .high s = (s.powerOn .low).setResetn .high := by
      simp only [movePin, hlow]
      rfl
    rw [exec_resetn, hrise, ← hpin hlow]
    rfl
  · simp only [exec_resetn, movePin, hhigh]

/-- While RESETn is low, an event other than its own leaves the part as it is. -/
theorem exec_low {i : Instr} {s : State} (hlow : s.resetn = .low) (hi : ∀ l, i ≠ .resetn l) : exec i s = .next s := by
  cases hc : i.asCommand with
  | some x =>
    obtain ⟨c, q, p⟩ := x
    rw [asCommand_eq hc, exec_instrOf, running_low hlow]
  | none =>
    cases i with
    | resetn l => exact absurd rfl (hi l)
    | shortFrame why => rfl
    | hostOffer r => exact running_low hlow _
    | grant => exact running_low hlow _
    | memoryResponse m => exact running_low hlow _
    | expiry k => exact running_low hlow _
    | hostLinkReset => exact running_low hlow _
    | commitCompletion => exact running_low hlow _
    | scheckCompletion => exact running_low hlow _
    | clearallCompletion => exact running_low hlow _
    | poll rest => exact running_low hlow _
    | unexecutedFrame bytes cut => exact running_low hlow _
    | _ => cases hc

/-- Settles O5: every other event is taken only by a part that runs, or is a short frame. -/
theorem nothingIsTakenWhileResetnIsLow : Obligations.NothingIsTakenWhileResetnIsLow :=
  fun _ _ hlow hi => exec_low hlow hi

end Sys2Proof.Machine
end

section
/-! One step by the queue of commands, what passes where none waits, and completions of what does not execute, with the statements
about them (R38, R39, R177, logs 1, 2, 6). -/

namespace Sys2Proof.Machine

/-! ### One step -/

theorem step_of_pending_cons {s : State} {c : Instr} {rest : List Instr} (h : s.pending = c :: rest) :
    step s = exec c (s.setPending rest) := by
  simp only [step, h]

theorem step_of_pending_nil {s : State} (h : s.pending = []) : step s = .next (s.setHold (s.hold.elapse 1)) := by
  simp only [step, h]

/-- Settles O1: a queue that has a front. -/
theorem stepRunsTheFrontCommand : Obligations.StepRunsTheFrontCommand :=
  fun _ _ _ => step_of_pending_cons rfl

/-- Settles O2: on an empty queue one unit elapses, which is a map over the slots and writes nothing but the hold table. -/
theorem idleStepPassesOneUnit : Obligations.IdleStepPassesOneUnit :=
  fun s hnil => ⟨_, step_of_pending_nil hnil, rfl, rfl, fun k => elapse_slot s.hold 1 k⟩

/-! ### Completions with no command of their kind in execution -/

section completion
variable {s : State}

/-- An event that changes nothing is without effect at either level of RESETn. -/
theorem running_unchanged {f : State → State} (h : f s = s) : running s f = .next s := by
  cases hr : s.resetn with
  | high => rw [running_high hr, h]
  | low => exact running_low hr f

theorem completeCommit_unchanged (h : ∀ q, s.port.phase ≠ .busy (.commit q)) : completeCommit s = s := by
  unfold completeCommit
  split
  · next q hp => exact absurd hp (h q)
  · rfl

theorem completeScheck_unchanged (h : ∀ q g c, s.port.phase ≠ .busy (.scheck q g c)) : completeScheck s = s := by
  unfold completeScheck
  split
  · next q g c hp => exact absurd hp (h q g c)
  · rfl

theorem completeClearall_unchanged (h : ∀ q, s.port.phase ≠ .busy (.clearall q)) : completeClearall s = s := by
  unfold completeClearall
  split
  · next q hp => exact absurd hp (h q)
  · rfl

end completion

/-- Settles O21: what completes is read off the port's phase, and each completion leaves the part as it is on any other phase. -/
theorem completionsNeedTheirCommand : Obligations.CompletionsNeedTheirCommand :=
  fun _ =>
    ⟨fun h => running_unchanged (completeCommit_unchanged h),
      fun h => running_unchanged (completeScheck_unchanged h),
      fun h => running_unchanged (completeClearall_unchanged h)⟩

end Sys2Proof.Machine
end
